-- ==== Sys2Proof/Word.lean ====
section
/-! DEFINITION. The words of the block: register words, stream bytes, symbols, code values (00_scope.md R8, R10). -/

namespace Sys2Proof

/-- A register word, REG_WIDTH = 32 bits (R8). -/
abbrev Word := BitVec 32

/-- One transfer of a byte-stream port, STREAM_WIDTH = 8 bits (R8). -/
abbrev Byte := BitVec 8

/-- A symbol, SYMBOL_BITS = 7 bits, an index 0..127 into the LUT (R8, R72). -/
abbrev Sym := BitVec 7

/-- A code length, LEN_BITS = 7 bits, 0..127 (R8, R38). -/
abbrev CodeLen := BitVec 7

/-- A stored code value, 127 bits, in the notation of R13 (R38). -/
abbrev Code := BitVec 127

end Sys2Proof
end

