-- ==== Sys2Proof/Syntax.lean ====
section
/-! DEFINITION. The nine commands (R73), the command word format (R71), and the names of what else the block's agents do:
registers (R23), moves of host and platform, engine steps (R103). -/

namespace Sys2Proof

/-- The nine commands of the opcode map (R73). An operand `sym` is the SYM field, 0..127 (R72). -/
inductive Instr where
  | nop
  | tblClear
  | entWrite (sym : Sym)
  | entRead (sym : Sym)
  | entInval (sym : Sym)
  | tblCheck
  | encStart
  | decStart
  | abort
  deriving DecidableEq, Repr

/-- The four fields of format C (R71). -/
structure FormatC where
  op   : BitVec 4    -- [3:0]
  rsv0 : BitVec 4    -- [7:4]
  sym  : Sym         -- [14:8]
  rsv1 : BitVec 17   -- [31:15]
  deriving DecidableEq, Repr

/-- Why a word spells no command (R74 (1), (2); R81). The cause BUSY depends on the state and is no matter of the word. -/
inductive Illegal where
  | illegalOp
  | reservedBits
  deriving DecidableEq, Repr

/-- The result of decoding a word: one of the nine commands, or `Illegal(cause)` (R81). -/
inductive Decoded where
  | command (i : Instr)
  | illegal (why : Illegal)
  deriving DecidableEq, Repr

/-- The sixteen registers, in the order of their offsets 0x00, 0x04, .., 0x3C (R23). -/
inductive Reg where
  | id | param | ctrl | cmd | status | inLen | inCount | outCount
  | entLen | entCode0 | entCode1 | entCode2 | entCode3 | tableCount | errInfo | skipCount
  deriving DecidableEq, Repr

/-- A move an agent has still to make (R103): the host's four steps, the platform's Reset, and a turn of the engine.
Offsets are the 6 address bits of the register port (R8, R52). -/
inductive Turn where
  | regRead (off : BitVec 6)
  | regWrite (off : BitVec 6) (w : Word)
  | offer (b : Byte)
  | take
  | reset
  | engine
  deriving DecidableEq, Repr

/-- The seven engine steps (R103). -/
inductive EngineStep where
  | encConsume | encEmitChar | encEmitDelim | encFinish
  | decConsume | decFlush | decFinish
  deriving DecidableEq, Repr

end Sys2Proof
end

