-- ==== Sys2Proof/WellFormed.lean ====
section
/-! DEFINITION. When the fields of a command word spell a command (R73, R74). Written over the opcode map as sets of OP
values, apart from the decoder, so that the two can be held against each other. -/

namespace Sys2Proof

/-- OP is not one of the seven illegal values 0x6, 0x7, 0xA..0xE (R74 (1)). -/
def FormatC.opLegal (f : FormatC) : Bool :=
  !([0x6#4, 0x7#4, 0xA#4, 0xB#4, 0xC#4, 0xD#4, 0xE#4].contains f.op)

/-- The OP values whose SYM field is an operand: ENT_WRITE, ENT_READ, ENT_INVAL (R73). -/
def FormatC.symIsOperand (f : FormatC) : Bool :=
  [0x2#4, 0x3#4, 0x4#4].contains f.op

/-- RSV0 and RSV1 are 0, and SYM is 0 where the row says "must be 0" (R74 (2)). -/
def FormatC.reservedClear (f : FormatC) : Bool :=
  f.rsv0 == 0 && f.rsv1 == 0 && (f.symIsOperand || f.sym == 0)

/-- The fields spell a command (R74). -/
def FormatC.wf (f : FormatC) : Bool :=
  f.opLegal && f.reservedClear

end Sys2Proof
end

