-- ==== Sys2Proof/Decode.lean ====
section
/-! DEFINITION. The decoder of command words, total on every 32-bit word (R81), and after it the encoder (R80). -/

namespace Sys2Proof

/-- The fields of a command word (R71). -/
def fieldsOfWord (w : Word) : FormatC where
  op   := w.extractLsb' 0 4
  rsv0 := w.extractLsb' 4 4
  sym  := w.extractLsb' 8 7
  rsv1 := w.extractLsb' 15 17

/-- A row of the opcode map whose SYM "must be 0" (R73, R74 (2)). -/
def decodePlain (f : FormatC) (i : Instr) : Decoded :=
  if f.rsv0 = 0 ∧ f.rsv1 = 0 ∧ f.sym = 0 then .command i else .illegal .reservedBits

/-- A row of the opcode map with a symbol operand (R73, R72, R74 (2)). -/
def decodeWithSym (f : FormatC) (i : Sym → Instr) : Decoded :=
  if f.rsv0 = 0 ∧ f.rsv1 = 0 then .command (i f.sym) else .illegal .reservedBits

/-- The opcode map (R73); OP is tested before the reserved bits (R74, R207 (d)). -/
def decodeFields (f : FormatC) : Decoded :=
  match f.op with
  | 0x0#4 => decodePlain f .nop
  | 0x1#4 => decodePlain f .tblClear
  | 0x2#4 => decodeWithSym f .entWrite
  | 0x3#4 => decodeWithSym f .entRead
  | 0x4#4 => decodeWithSym f .entInval
  | 0x5#4 => decodePlain f .tblCheck
  | 0x8#4 => decodePlain f .encStart
  | 0x9#4 => decodePlain f .decStart
  | 0xF#4 => decodePlain f .abort
  | _ => .illegal .illegalOp

/-- `decode(w)` of R81. -/
def decode (w : Word) : Decoded :=
  decodeFields (fieldsOfWord w)

/-- What the decoder reads from the first `nbits` bits of `w`; the bits above them are 0. Every command word has 32 bits
(R70), so there is no longer one. -/
def decodeTableWord (nbits w : Nat) : Option Instr :=
  if nbits ≤ 32 then
    match decode (BitVec.ofNat 32 (w % 2 ^ nbits)) with
    | .command i => some i
    | .illegal _ => none
  else none

/-- The OP value of each command (R73). -/
def opcode : Instr → BitVec 4
  | .nop        => 0x0#4
  | .tblClear   => 0x1#4
  | .entWrite _ => 0x2#4
  | .entRead _  => 0x3#4
  | .entInval _ => 0x4#4
  | .tblCheck   => 0x5#4
  | .encStart   => 0x8#4
  | .decStart   => 0x9#4
  | .abort      => 0xF#4

/-- The SYM field of each command: its operand, or 0 (R73). -/
def symField : Instr → Sym
  | .nop        => 0
  | .tblClear   => 0
  | .entWrite s => s
  | .entRead s  => s
  | .entInval s => s
  | .tblCheck   => 0
  | .encStart   => 0
  | .decStart   => 0
  | .abort      => 0

/-- The fields of a command, reserved fields 0 (R71). -/
def Instr.fields (i : Instr) : FormatC where
  op   := opcode i
  rsv0 := 0
  sym  := symField i
  rsv1 := 0

/-- Format C assembled: each field at its bits (R71). -/
def FormatC.word (f : FormatC) : Word :=
  f.op.setWidth 32 ||| (f.rsv0.setWidth 32 <<< 4) ||| (f.sym.setWidth 32 <<< 8) ||| (f.rsv1.setWidth 32 <<< 15)

/-- The word of a command (R71, R80). -/
def encode (i : Instr) : Word :=
  i.fields.word

end Sys2Proof
end

