-- ==== Sys2Proof/Config.lean ====
section
/-! DEFINITION. What is fixed for this hardware (R8) and the parameters the spec leaves OPEN: the platform's are opaque
(R54, R209), the host's are an argument (R180, R189). -/

namespace Sys2Proof.Config

/-- ALPHABET_SIZE (R8). -/
def alphabetSize : Nat := 128

/-- SYMBOL_BITS (R8). -/
def symbolBits : Nat := 7

/-- MAX_CODE_LEN (R8). -/
def maxCodeLen : Nat := 127

/-- REG_BASE, the platform address of the register window, OPEN (R54, log 9). -/
opaque regBase : Nat

/-- IRQ_ROUTE, which platform interrupt input the line irq drives, OPEN (R209, log 9); that it is one input: log 14. -/
opaque irqRoute : Nat

/-- What a frequency entry holds after a count that its width cannot hold: a free value (R180, log 10). -/
opaque overlongCount : Nat → Nat

end Sys2Proof.Config

namespace Sys2Proof

/-- The parameters of a host that the spec leaves OPEN; whatever speaks of the host takes them as an argument, and holds for
all of them. HOST_TIE_BREAK and HOST_CHILD_ORDER (R182, R186) are the relation Reference.Builds. -/
structure HostParams where
  /-- HOST_COUNT_WIDTH in bits, none where the counts have no bound (R180). -/
  countWidth : Option Nat
  /-- TABLE_BLOB_FORMAT: the serialized form of a SymbolTable (R189). -/
  tableBlob : List (Sym × List Bool) → List Byte
  /-- SEPARATOR_BYTES (R189). -/
  separatorBytes : List Byte
  /-- The host's policy on a decode job that skipped a token: whether it takes it as a failure (R161, log 13). -/
  skipsFail : Bool

end Sys2Proof
end

