-- ==== Sys2Proof/Machine/State.lean ====
section
/-! DEFINITION. The complete state of the block (R20) and beside it the host's side of its ports; the state after reset (R46). -/

namespace Sys2Proof.Machine

/-- Job error codes, STATUS.ERRCODE (R200). The reserved codes 6..15 are never produced and have no name here (I13). -/
inductive ErrCode where
  | noError | inputRange | emptyInput | missingCode | injectivity | aborted
  deriving DecidableEq, Repr

/-- Causes of a rejected command, STATUS.CMD_CAUSE (R201). -/
inductive CmdCause where
  | noCause | illegalOp | reservedBits | busy
  deriving DecidableEq, Repr

/-- Kind of the last job started, STATUS.JOB (R28). -/
inductive JobKind where
  | noJob | encode | decode | check
  deriving DecidableEq, Repr

/-- E.job (R39). -/
inductive Job where
  | idle | enc | dec
  deriving DecidableEq, Repr

/-- One LUT row (R38). -/
structure Entry where
  valid : Bool
  len   : CodeLen
  code  : Code
  deriving DecidableEq, Repr

/-- The row that reset, TBL_CLEAR and ENT_INVAL write (R38). -/
def Entry.invalid : Entry where
  valid := false
  len   := 0
  code  := 0

/-- The LUT: 128 rows indexed by symbol (R38). -/
abbrev Lut := Vector Entry 128

/-- The LUT with no valid row (R38, R46). -/
def Lut.empty : Lut := Vector.replicate 128 Entry.invalid

/-- The engine's internal state E (R39 to R42). -/
structure Engine where
  job       : Job
  remaining : Word
  encActive : Bool
  encSym    : Sym
  encPos    : BitVec 8
  decIntok  : Bool
  decDead   : Bool
  decLen    : CodeLen
  decAcc    : Code
  degen     : Bool
  degSym    : Sym
  deriving DecidableEq, Repr

/-- E after reset and after `end_job()` (R39 to R42, R46, R99). -/
def Engine.cleared : Engine where
  job       := .idle
  remaining := 0
  encActive := false
  encSym    := 0
  encPos    := 0
  decIntok  := false
  decDead   := false
  decLen    := 0
  decAcc    := 0
  degen     := false
  degSym    := 0

/-- The host's side, which is no state of the block (R20): the moves still to come (log 1), the word the last register
read returned, and the bytes taken so far, oldest first (log 2). -/
structure HostSide where
  turns    : List Turn
  readData : Option Word
  taken    : List Byte
  deriving DecidableEq, Repr

/-- The block (R20 (a) to (d)) and the host's side. ID, PARAM and CMD hold no state (R24, R25, R27); STATUS.BUSY (R39) and
irq (R43) are functions of the state (log 6); counters wrap (log 12). -/
structure State where
  /-- The platform has applied reset since power-up (R232, log 3). -/
  resetSeen   : Bool
  ctrl        : BitVec 3
  done        : Bool
  err         : Bool
  cmdErr      : Bool
  errCode     : ErrCode
  jobKind     : JobKind
  statusDegen : Bool
  cmdCause    : CmdCause
  inLen       : Word
  inCount     : Word
  outCount    : Word
  entValid    : Bool
  entLen      : CodeLen
  entCode0    : Word
  entCode1    : Word
  entCode2    : Word
  entCode3    : Word
  tableCount  : BitVec 8
  errInfo     : Word
  skipCount   : Word
  lut         : Lut
  inSlot      : Option Byte
  outSlot     : Option Byte
  eng         : Engine
  host        : HostSide
  deriving DecidableEq, Repr

/-- No fault stops this block: every register access, offer, take and decode step is free of errors (R202), and the errors
of R200 and R201 are recorded in STATUS by a next state. -/
inductive Fault where
  deriving DecidableEq, Repr

/-- Why a step has no meaning. -/
inductive Refusal where
  /-- An instruction that has no meaning yet; raised by no arm of `exec`. Safe. -/
  | notModelled (mnemonic : String)
  /-- Raised by `step` for every step but Reset before the first reset (R232). Safe: no claim is made of that time. -/
  | beforeFirstReset
  deriving DecidableEq, Repr

/-- The state a run starts in: the values of R46, with IN.slot none (R232) and no move of the host waiting. -/
def State.reset : State where
  resetSeen   := true
  ctrl        := 0
  done        := false
  err         := false
  cmdErr      := false
  errCode     := .noError
  jobKind     := .noJob
  statusDegen := false
  cmdCause    := .noCause
  inLen       := 0
  inCount     := 0
  outCount    := 0
  entValid    := false
  entLen      := 0
  entCode0    := 0
  entCode1    := 0
  entCode2    := 0
  entCode3    := 0
  tableCount  := 0
  errInfo     := 0
  skipCount   := 0
  lut         := Lut.empty
  inSlot      := none
  outSlot     := none
  eng         := Engine.cleared
  host        := { turns := [], readData := none, taken := [] }

end Sys2Proof.Machine
end

