-- ==== Sys2Proof/Machine/Flags.lean ====
section
/-! DEFINITION. The numbers of the codes and kinds (R28, R200, R201), STATUS and the other registers with fields as the
words the host reads (R28, R32, R34), the interrupt line (R43). -/

namespace Sys2Proof.Machine

/-- STATUS.ERRCODE as a number (R200). -/
def ErrCode.code : ErrCode → BitVec 4
  | .noError     => 0
  | .inputRange  => 1
  | .emptyInput  => 2
  | .missingCode => 3
  | .injectivity => 4
  | .aborted     => 5

/-- STATUS.CMD_CAUSE as a number (R201). -/
def CmdCause.code : CmdCause → BitVec 2
  | .noCause      => 0
  | .illegalOp    => 1
  | .reservedBits => 2
  | .busy         => 3

/-- STATUS.JOB as a number (R28). -/
def JobKind.code : JobKind → BitVec 2
  | .noJob  => 0
  | .encode => 1
  | .decode => 2
  | .check  => 3

/-- The cause a rejected word is reported with (R74, R201). -/
def illegalCause : Illegal → CmdCause
  | .illegalOp    => .illegalOp
  | .reservedBits => .reservedBits

/-- STATUS.BUSY: 1 exactly when E.job is not IDLE (R28, R39; log 6). -/
def State.busy (s : State) : Bool :=
  s.eng.job != .idle

/-- A one-bit field of a register at bit `n`. -/
def bitAt (n : Nat) (b : Bool) : Word :=
  (BitVec.ofBool b).setWidth 32 <<< n

/-- STATUS as read (R28): BUSY [0], DONE [1], ERR [2], CMD_ERR [3], ERRCODE [7:4], JOB [9:8], DEGEN [10], CMD_CAUSE [13:12];
bits [11] and [31:14] are reserved and read 0. -/
def State.statusWord (s : State) : Word :=
  bitAt 0 s.busy ||| bitAt 1 s.done ||| bitAt 2 s.err ||| bitAt 3 s.cmdErr |||
    (s.errCode.code.setWidth 32 <<< 4) ||| (s.jobKind.code.setWidth 32 <<< 8) |||
    bitAt 10 s.statusDegen ||| (s.cmdCause.code.setWidth 32 <<< 12)

/-- ENT_LEN as read: VALID at bit 31, LEN at [6:0] (R32). -/
def State.entLenWord (s : State) : Word :=
  bitAt 31 s.entValid ||| s.entLen.setWidth 32

/-- CTRL.IE_DONE (R26). -/
def State.ieDone (s : State) : Bool := s.ctrl.getLsbD 0

/-- CTRL.IE_ERR (R26). -/
def State.ieErr (s : State) : Bool := s.ctrl.getLsbD 1

/-- CTRL.IE_CMD (R26). -/
def State.ieCmd (s : State) : Bool := s.ctrl.getLsbD 2

/-- The level of the interrupt line (R43). -/
def State.irq (s : State) : Bool :=
  (s.done && s.ieDone) || (s.err && s.ieErr) || (s.cmdErr && s.ieCmd)

/-- The level irq gives platform interrupt input `n`; the routing is the platform's (R209, log 9). That it drives exactly one
input, with its own level, is the model's choice (log 14). -/
def State.platformIrq (s : State) (n : Nat) : Bool :=
  decide (n = Config.irqRoute) && s.irq

end Sys2Proof.Machine
end

