-- ==== Sys2Proof/Machine/Operands.lean ====
section
/-! DEFINITION. Operand forms: the register a byte offset names (R23, R52), the staging registers and the operands taken
from them (R33, R72), LUT rows by symbol (R38), the constant registers (R24, R25), byte characters (R10, R13). -/

namespace Sys2Proof.Machine

/-- The register of each register number 0x0 .. 0xF (R23, R90). -/
def regOfNumber (r : BitVec 4) : Reg :=
  match r with
  | 0x0#4 => .id
  | 0x1#4 => .param
  | 0x2#4 => .ctrl
  | 0x3#4 => .cmd
  | 0x4#4 => .status
  | 0x5#4 => .inLen
  | 0x6#4 => .inCount
  | 0x7#4 => .outCount
  | 0x8#4 => .entLen
  | 0x9#4 => .entCode0
  | 0xA#4 => .entCode1
  | 0xB#4 => .entCode2
  | 0xC#4 => .entCode3
  | 0xD#4 => .tableCount
  | 0xE#4 => .errInfo
  | _     => .skipCount

/-- The register at a byte offset: bits [5:2] select it, bits [1:0] are ignored (R23, R52). -/
def regOfOffset (off : BitVec 6) : Reg :=
  regOfNumber (off.extractLsb' 2 4)

/-- The offset of CMD (R27). -/
def cmdOffset : BitVec 6 := 0x0C

/-- The block's offset for a platform address, the window being 64 bytes at REG_BASE (R54, log 9). -/
def offsetOfAddress (addr : Nat) : Option (BitVec 6) :=
  if Config.regBase ≤ addr ∧ addr < Config.regBase + 64 then some (BitVec.ofNat 6 (addr - Config.regBase)) else none

/-- ID (R24). -/
def idWord : Word := 0x48554646

/-- PARAM (R25). -/
def paramWord : Word := 0x0080077F

/-- Row `k` of a LUT (R11, R38). -/
def lutAt (lut : Lut) (k : Sym) : Entry :=
  lut[k.toNat]'k.isLt

/-- LUT[k] (R11, R38). -/
def State.entry (s : State) (k : Sym) : Entry :=
  lutAt s.lut k

/-- `LUT[k] <- e` (R11). -/
def State.setEntry (s : State) (k : Sym) (e : Entry) : State :=
  { s with lut := s.lut.set k.toNat e k.isLt }

/-- STAGE_CODE = ENT_CODE3 ++ ENT_CODE2 ++ ENT_CODE1 ++ ENT_CODE0 (R33, R72). -/
def State.stageCode (s : State) : BitVec 128 :=
  (s.entCode3.setWidth 128 <<< 96) ||| (s.entCode2.setWidth 128 <<< 64) ||| (s.entCode1.setWidth 128 <<< 32) |||
    s.entCode0.setWidth 128

/-- `STAGE_CODE <- v` (R33). -/
def State.setStageCode (s : State) (v : BitVec 128) : State :=
  { s with
    entCode0 := v.extractLsb' 0 32
    entCode1 := v.extractLsb' 32 32
    entCode2 := v.extractLsb' 64 32
    entCode3 := v.extractLsb' 96 32 }

/-- The bits of a code value below `len`: `v AND (2^len - 1)` (R72). -/
def codeMask (len : CodeLen) (v : Code) : Code :=
  v &&& (((1 : Code) <<< len.toNat) - 1)

/-- The row ENT_WRITE stores: len from ENT_LEN.LEN, code from STAGE_CODE[126:0] masked to len bits (R72, R111). -/
def State.stagedEntry (s : State) : Entry where
  valid := true
  len   := s.entLen
  code  := codeMask s.entLen (s.stageCode.extractLsb' 0 127)

/-- The byte '0' (R10). -/
def char0 : Byte := 0x30

/-- The byte '1' (R10). -/
def char1 : Byte := 0x31

/-- The byte ' ' (R10). -/
def space : Byte := 0x20

/-- The character of one code bit: `0x30 + bit` (R134). -/
def bitChar (b : Bool) : Byte :=
  char0 + (BitVec.ofBool b).setWidth 8

/-- The whitespace bytes: tab, line feed, vertical tab, form feed, carriage return, space (R151). -/
def isWhitespace (b : Byte) : Bool :=
  b == 0x09 || b == 0x0A || b == 0x0B || b == 0x0C || b == 0x0D || b == 0x20

end Sys2Proof.Machine
end

