-- ==== Sys2Proof/Machine/Ops.lean ====
section
/-! DEFINITION. The operations the rules share: the port primitives (R12), raising CmdError (R206) and JobError (R203),
begin_job (R98), end_job (R99), finish (R104), the BUSY check of dispatch (R92), and the searches of the LUT
(R115, R152, R160). -/

namespace Sys2Proof.Machine

/-! ## Ports (R12) -/

/-- `InTake()` leaves IN.slot empty (R12, R37). -/
def State.takeIn (s : State) : State :=
  { s with inSlot := none }

/-- One input byte taken and counted: `InTake()`, IN_COUNT up by 1, E.remaining down by 1 (R132, R155). -/
def State.countByte (s : State) : State :=
  { s.takeIn with inCount := s.inCount + 1, eng := { s.eng with remaining := s.eng.remaining - 1 } }

/-- `OutPut(b)` (R12, R37). -/
def State.putOut (s : State) (b : Byte) : State :=
  { s with outSlot := some b }

/-! ## Errors: what this block has in the place of exceptions -/

/-- `raise CmdError(cause)`: STATUS.CMD_ERR and STATUS.CMD_CAUSE, and nothing else (R206). -/
def cmdError (cause : CmdCause) (s : State) : State :=
  { s with cmdErr := true, cmdCause := cause }

/-- `end_job()` (R99). -/
def endJob (s : State) : State :=
  { s with eng := Engine.cleared, outSlot := none }

/-- `raise JobError(code, info)`: ends the running job, if there is one, and records the error (R203). -/
def jobError (code : ErrCode) (info : Word) (s : State) : State :=
  { (if s.eng.job = .idle then s else endJob s) with err := true, errCode := code, errInfo := info }

/-! ## Jobs -/

/-- `begin_job(kind)` (R98); STATUS.DEGEN is cleared whatever the kind (log 5). -/
def beginJob (kind : JobKind) (s : State) : State :=
  { s with
    done        := false
    err         := false
    errCode     := .noError
    jobKind     := kind
    statusDegen := false
    errInfo     := 0
    inCount     := 0
    outCount    := 0
    skipCount   := 0 }

/-- `finish()` (R104). -/
def finish (s : State) : State :=
  { endJob s with done := true }

/-- A command that is rejected with cause BUSY while a job runs (R92, R93; log 11). -/
def whenIdle (f : State → State) (s : State) : State :=
  if s.eng.job = .idle then f s else cmdError .busy s

/-! ## Searches of the LUT. A list of rows is searched from its head, whose symbol is `i`. -/

/-- Two valid rows hold the same code string (R115). -/
def Entry.sameCode (a b : Entry) : Bool :=
  a.valid && b.valid && a.len == b.len && a.code == b.code

/-- The first row of `es` with the code of `e`: the inner loop of `find_dup()` (R115). -/
def firstSame (e : Entry) : List Entry → Nat → Option Nat
  | [], _ => none
  | x :: es, j => if e.sameCode x then some j else firstSame e es (j + 1)

/-- The outer loop of `find_dup()` (R115). A row that is not valid has no pair. -/
def firstPair : List Entry → Nat → Option (Nat × Nat)
  | [], _ => none
  | e :: es, i =>
    if e.valid then
      match firstSame e es (i + 1) with
      | some j => some (i, j)
      | none => firstPair es (i + 1)
    else firstPair es (i + 1)

/-- `find_dup()`: the first pair (i, j), i < j, of valid rows with the same code, in lexicographic order (R115). -/
def State.findDup (s : State) : Option (Sym × Sym) :=
  (firstPair s.lut.toList 0).map fun p => (BitVec.ofNat 7 p.1, BitVec.ofNat 7 p.2)

/-- The first valid row of length `len` and value `v`. -/
def firstMatch (len : CodeLen) (v : Code) : List Entry → Nat → Option Nat
  | [], _ => none
  | e :: es, i => if e.valid && e.len == len && e.code == v then some i else firstMatch len v es (i + 1)

/-- `match(L, v)` (R160). At most one row qualifies while a decode job runs (R150); in a state no run reaches, where
several do, the lowest symbol is taken (log 7). -/
def State.matchCode (s : State) (len : CodeLen) (v : Code) : Option Sym :=
  (firstMatch len v s.lut.toList 0).map (BitVec.ofNat 7)

/-- The first valid row and its symbol. -/
def firstValid : List Entry → Nat → Option (Nat × Entry)
  | [], _ => none
  | e :: es, i => if e.valid then some (i, e) else firstValid es (i + 1)

/-- The symbol of a degenerate table: TABLE_COUNT = 1 and the one valid row has len 0 (R150, R152; log 7). -/
def State.degenerateSym (s : State) : Option Sym :=
  if s.tableCount = 1 then
    match firstValid s.lut.toList 0 with
    | some (i, e) => if e.len = 0 then some (BitVec.ofNat 7 i) else none
    | none => none
  else none

/-- ERR_INFO of INJECTIVITY: `(j << 8) OR i` (R35, R116). -/
def pairInfo (p : Sym × Sym) : Word :=
  (p.2.setWidth 32 <<< 8) ||| p.1.setWidth 32

end Sys2Proof.Machine
end

