-- ==== Sys2Proof/Machine/Decoder.lean ====
section
/-! DEFINITION. The decoder: DEC_START (R150), the shared procedures extend and end_token (R154), and the engine steps
DEC_CONSUME, DEC_FLUSH, DEC_FINISH (R155 to R159), each with its guard (R103). -/

namespace Sys2Proof.Machine

/-- E with no token open (R150, R154). -/
def Engine.noToken (e : Engine) : Engine :=
  { e with decIntok := false, decDead := false, decLen := 0, decAcc := 0 }

/-- A decode job begun on an injective table (R150): degenerate mode is entered or not (R152). -/
def decBegin (s : State) : State :=
  let s1 := { s with eng := { s.eng with job := .dec, remaining := s.inLen }.noToken }
  match s1.degenerateSym with
  | some k => { s1 with statusDegen := true, eng := { s1.eng with degen := true, degSym := k } }
  | none   => { s1 with eng := { s1.eng with degen := false } }

/-- The effect of DEC_START (R150). -/
def decStart (s : State) : State :=
  let s1 := beginJob .decode s
  match s1.findDup with
  | some p => jobError .injectivity (pairInfo p) s1
  | none   => decBegin s1

/-- DEC_START (R150). -/
def execDecStart (s : State) : Host.Outcome State Fault Refusal :=
  .next (whenIdle decStart s)

/-- The first part of `extend(b)`: a token byte with no token open opens one (R154). -/
def Engine.openToken (e : Engine) : Engine :=
  if e.decIntok then e else { e.noToken with decIntok := true }

/-- The second part of `extend(b)`: the byte is accumulated, or makes the token dead (R154, R164). -/
def Engine.accumulate (b : Byte) (e : Engine) : Engine :=
  if e.decDead then e
  else if (b ≠ char0 ∧ b ≠ char1) ∨ e.decLen.toNat = Config.maxCodeLen then { e with decDead := true }
  else { e with
    decAcc := (e.decAcc <<< 1) ||| (b - char0).setWidth 127
    decLen := e.decLen + 1 }

/-- `extend(b)` (R154). -/
def extend (b : Byte) (s : State) : State :=
  { s with eng := s.eng.openToken.accumulate b }

/-- `end_token()`: the token is matched, or skipped and counted (R154, R161). -/
def endToken (s : State) : State :=
  let m := if s.eng.decDead then none else s.matchCode s.eng.decLen s.eng.decAcc
  let s1 := match m with
    | some k => s.putOut (k.setWidth 8)
    | none   => { s with skipCount := s.skipCount + 1 }
  { s1 with eng := s1.eng.noToken }

/-- Guard of DEC_CONSUME (R103, R155). -/
def decConsumeGuard (s : State) : Bool :=
  s.eng.job == .dec && decide (0 < s.eng.remaining.toNat) && s.inSlot.isSome && s.outSlot.isNone

/-- A whitespace byte ends the token that is open, if one is (R155). -/
def endOpenToken (s : State) : State :=
  if s.eng.decIntok then endToken s else s

/-- In degenerate mode a space emits the sole symbol, even where it also ended a token (R152 (a), R155). -/
def emitDegenerate (b : Byte) (s : State) : State :=
  if s.eng.degen && b == space then s.putOut (s.eng.degSym.setWidth 8) else s

/-- DEC_CONSUME of the byte `b` (R155). -/
def decConsumeByte (b : Byte) (s : State) : State :=
  if isWhitespace b then emitDegenerate b (endOpenToken s.countByte) else extend b s.countByte

/-- DEC_CONSUME (R155). With no byte offered its guard is false. -/
def decConsume (s : State) : State :=
  match s.inSlot with
  | some b => decConsumeByte b s
  | none   => s

/-- Guard of DEC_FLUSH (R103, R158). -/
def decFlushGuard (s : State) : Bool :=
  s.eng.job == .dec && s.eng.remaining == 0 && s.eng.decIntok && s.outSlot.isNone

/-- DEC_FLUSH: the end of the input ends an open token (R157, R158). -/
def decFlush (s : State) : State :=
  endToken s

/-- Guard of DEC_FINISH (R103, R159). -/
def decFinishGuard (s : State) : Bool :=
  s.eng.job == .dec && s.eng.remaining == 0 && !s.eng.decIntok && s.outSlot.isNone

/-- DEC_FINISH (R159). -/
def decFinish (s : State) : State :=
  finish s

end Sys2Proof.Machine
end

