-- ==== Sys2Proof/Machine/Encoder.lean ====
section
/-! DEFINITION. The encoder: ENC_START (R130) and the engine steps ENC_CONSUME, ENC_EMIT_CHAR, ENC_EMIT_DELIM, ENC_FINISH
(R132 to R136), each with its guard (R103). -/

namespace Sys2Proof.Machine

/-- ERR_INFO of EMPTY_INPUT: `(ei << 1) OR et` (R35, R130). -/
def emptyInfo (tableEmpty lenZero : Bool) : Word :=
  ((BitVec.ofBool lenZero).setWidth 32 <<< 1) ||| (BitVec.ofBool tableEmpty).setWidth 32

/-- The effect of ENC_START (R130). -/
def encStart (s : State) : State :=
  let s1 := beginJob .encode s
  let et := s1.tableCount == 0
  let ei := s1.inLen == 0
  if et || ei then jobError .emptyInput (emptyInfo et ei) s1
  else { s1 with eng := { s1.eng with job := .enc, remaining := s1.inLen, encActive := false, encPos := 0 } }

/-- ENC_START (R130). -/
def execEncStart (s : State) : Host.Outcome State Fault Refusal :=
  .next (whenIdle encStart s)

/-- Guard of ENC_CONSUME (R103, R132). -/
def encConsumeGuard (s : State) : Bool :=
  s.eng.job == .enc && !s.eng.encActive && decide (0 < s.eng.remaining.toNat) && s.inSlot.isSome

/-- ENC_CONSUME of the byte `b`: the LUT index stage (R132). -/
def encConsumeByte (b : Byte) (s : State) : State :=
  let s1 := s.countByte
  if 0x80 ≤ b.toNat then jobError .inputRange (b.setWidth 32) s1
  else if (s1.entry (b.setWidth 7)).valid then
    { s1 with eng := { s1.eng with encSym := b.setWidth 7, encPos := 0, encActive := true } }
  else jobError .missingCode (b.setWidth 32) s1

/-- ENC_CONSUME (R132). With no byte offered its guard is false. -/
def encConsume (s : State) : State :=
  match s.inSlot with
  | some b => encConsumeByte b s
  | none   => s

/-- The row being serialized. -/
abbrev State.encEntry (s : State) : Entry :=
  s.entry s.eng.encSym

/-- Guard of ENC_EMIT_CHAR (R103, R134). -/
def encEmitCharGuard (s : State) : Bool :=
  s.eng.job == .enc && s.eng.encActive && decide (s.eng.encPos.toNat < s.encEntry.len.toNat) && s.outSlot.isNone

/-- ENC_EMIT_CHAR: character c_{enc_pos} is bit `L - 1 - enc_pos` of the code value (R134). -/
def encEmitChar (s : State) : State :=
  let k := s.encEntry.len.toNat - 1 - s.eng.encPos.toNat
  let s1 := s.putOut (bitChar (s.encEntry.code.getLsbD k))
  { s1 with eng := { s1.eng with encPos := s1.eng.encPos + 1 } }

/-- Guard of ENC_EMIT_DELIM (R103, R135). -/
def encEmitDelimGuard (s : State) : Bool :=
  s.eng.job == .enc && s.eng.encActive && decide (s.eng.encPos.toNat = s.encEntry.len.toNat) && s.outSlot.isNone

/-- ENC_EMIT_DELIM (R135). -/
def encEmitDelim (s : State) : State :=
  let s1 := s.putOut space
  { s1 with eng := { s1.eng with encActive := false, encPos := 0 } }

/-- Guard of ENC_FINISH (R103, R136). -/
def encFinishGuard (s : State) : Bool :=
  s.eng.job == .enc && !s.eng.encActive && s.eng.remaining == 0 && s.outSlot.isNone

/-- ENC_FINISH (R136). -/
def encFinish (s : State) : State :=
  finish s

end Sys2Proof.Machine
end

