-- ==== Sys2Proof/Machine/System.lean ====
section
/-! DEFINITION. NOP and ABORT (R96, R97): the two commands accepted while a job runs. -/

namespace Sys2Proof.Machine

/-- NOP (R96). -/
def execNop (s : State) : Host.Outcome State Fault Refusal :=
  .next s

/-- The effect of ABORT (R97). -/
def abort (s : State) : State :=
  if s.eng.job = .idle then s else jobError .aborted 0 s

/-- ABORT (R97). -/
def execAbort (s : State) : Host.Outcome State Fault Refusal :=
  .next (abort s)

end Sys2Proof.Machine
end

