-- ==== Sys2Proof/Machine/Table.lean ====
section
/-! DEFINITION. The LUT commands TBL_CLEAR, ENT_WRITE, ENT_READ, ENT_INVAL, TBL_CHECK (R110 to R116). -/

namespace Sys2Proof.Machine

/-- The effect of TBL_CLEAR (R110). -/
def tblClear (s : State) : State :=
  { s with lut := Lut.empty, tableCount := 0 }

/-- The effect of ENT_WRITE (R111). No check of the new code against the other rows is made (R117). -/
def entWrite (k : Sym) (s : State) : State :=
  let counted := if (s.entry k).valid then s else { s with tableCount := s.tableCount + 1 }
  counted.setEntry k s.stagedEntry

/-- The effect of ENT_READ (R113). -/
def entRead (k : Sym) (s : State) : State :=
  let e := s.entry k
  if e.valid then
    ({ s with entValid := true, entLen := e.len }).setStageCode (e.code.setWidth 128)
  else
    ({ s with entValid := false, entLen := 0 }).setStageCode 0

/-- The effect of ENT_INVAL (R114). -/
def entInval (k : Sym) (s : State) : State :=
  let counted := if (s.entry k).valid then { s with tableCount := s.tableCount - 1 } else s
  counted.setEntry k Entry.invalid

/-- The effect of TBL_CHECK (R116). -/
def tblCheck (s : State) : State :=
  let s1 := beginJob .check s
  match s1.findDup with
  | some p => jobError .injectivity (pairInfo p) s1
  | none   => { s1 with done := true }

/-- TBL_CLEAR (R110). -/
def execTblClear (s : State) : Host.Outcome State Fault Refusal :=
  .next (whenIdle tblClear s)

/-- ENT_WRITE sym (R111). -/
def execEntWrite (k : Sym) (s : State) : Host.Outcome State Fault Refusal :=
  .next (whenIdle (entWrite k) s)

/-- ENT_READ sym (R113). -/
def execEntRead (k : Sym) (s : State) : Host.Outcome State Fault Refusal :=
  .next (whenIdle (entRead k) s)

/-- ENT_INVAL sym (R114). -/
def execEntInval (k : Sym) (s : State) : Host.Outcome State Fault Refusal :=
  .next (whenIdle (entInval k) s)

/-- TBL_CHECK (R116). -/
def execTblCheck (s : State) : Host.Outcome State Fault Refusal :=
  .next (whenIdle tblCheck s)

end Sys2Proof.Machine
end

