-- ==== Sys2Proof/Machine/Dispatch.lean ====
section
/-! DEFINITION. exec: `execute d` of R92, the BUSY check of R92 and R93 included in each meaning (log 11). -/

namespace Sys2Proof.Machine

def exec (i : Instr) (s : State) : Host.Outcome State Fault Refusal :=
  match i with
  | .nop => Sys2Proof.Machine.execNop s
  | .tblClear => Sys2Proof.Machine.execTblClear s
  | .entWrite sym => Sys2Proof.Machine.execEntWrite sym s
  | .entRead sym => Sys2Proof.Machine.execEntRead sym s
  | .entInval sym => Sys2Proof.Machine.execEntInval sym s
  | .tblCheck => Sys2Proof.Machine.execTblCheck s
  | .encStart => Sys2Proof.Machine.execEncStart s
  | .decStart => Sys2Proof.Machine.execDecStart s
  | .abort => Sys2Proof.Machine.execAbort s

end Sys2Proof.Machine
end

