-- ==== Sys2Proof/Machine/Port.lean ====
section
/-! DEFINITION. The steps of R103: the register port (R90, R91, R92), the stream ports (R94, R95), Reset (R230), and which
engine step is enabled (R103). -/

namespace Sys2Proof.Machine

/-- The word a register read returns (R90). -/
def State.readReg (s : State) : Reg → Word
  | .id         => idWord
  | .param      => paramWord
  | .ctrl       => s.ctrl.setWidth 32
  | .cmd        => 0
  | .status     => s.statusWord
  | .inLen      => s.inLen
  | .inCount    => s.inCount
  | .outCount   => s.outCount
  | .entLen     => s.entLenWord
  | .entCode0   => s.entCode0
  | .entCode1   => s.entCode1
  | .entCode2   => s.entCode2
  | .entCode3   => s.entCode3
  | .tableCount => s.tableCount.setWidth 32
  | .errInfo    => s.errInfo
  | .skipCount  => s.skipCount

/-- RegRead (R90): the host receives the word; the block does not change. -/
def regRead (off : BitVec 6) (s : State) : State :=
  { s with host := { s.host with readData := some (s.readReg (regOfOffset off)) } }

/-- `Dispatch(w)` (R92). -/
def dispatch (w : Word) (s : State) : Host.Outcome State Fault Refusal :=
  match decode w with
  | .illegal why => .next (cmdError (illegalCause why) s)
  | .command i   => exec i s

/-- Writing 1 to DONE clears it (R28, R91). -/
def ackDone (w : Word) (s : State) : State :=
  if w.getLsbD 1 then { s with done := false } else s

/-- Writing 1 to ERR clears it with ERRCODE (R28, R91). -/
def ackErr (w : Word) (s : State) : State :=
  if w.getLsbD 2 then { s with err := false, errCode := .noError } else s

/-- Writing 1 to CMD_ERR clears it with CMD_CAUSE (R28, R91). -/
def ackCmdErr (w : Word) (s : State) : State :=
  if w.getLsbD 3 then { s with cmdErr := false, cmdCause := .noCause } else s

/-- A write of STATUS: its W1C bits (R91). -/
def writeStatus (w : Word) (s : State) : State :=
  ackCmdErr w (ackErr w (ackDone w s))

/-- A write of a register other than CMD (R91). -/
def writeReg (r : Reg) (w : Word) (s : State) : State :=
  match r with
  | .ctrl       => { s with ctrl := w.setWidth 3 }
  | .status     => writeStatus w s
  | .inLen      => { s with inLen := w }
  | .entLen     => { s with entLen := w.setWidth 7 }
  | .entCode0   => { s with entCode0 := w }
  | .entCode1   => { s with entCode1 := w }
  | .entCode2   => { s with entCode2 := w }
  | .entCode3   => { s with entCode3 := w }
  | .id         => s
  | .param      => s
  | .cmd        => s
  | .inCount    => s
  | .outCount   => s
  | .tableCount => s
  | .errInfo    => s
  | .skipCount  => s

/-- RegWrite (R91): a write of CMD issues a command. -/
def regWrite (off : BitVec 6) (w : Word) (s : State) : Host.Outcome State Fault Refusal :=
  let r := regOfOffset off
  if r = .cmd then dispatch w s else .next (writeReg r w s)

/-- HostOffer (R94). -/
def hostOffer (b : Byte) (s : State) : State :=
  { s with inSlot := some b }

/-- HostTake (R95). With no byte held its guard is false. -/
def hostTake (s : State) : State :=
  match s.outSlot with
  | some b => { s with
      outSlot  := none
      outCount := s.outCount + 1
      host     := { s.host with taken := s.host.taken ++ [b] } }
  | none => s

/-- Reset (R230): every value of R46; IN.slot is the host's and stays (R231), as does what the host holds. -/
def platformReset (s : State) : State :=
  { State.reset with inSlot := s.inSlot, host := s.host }

/-- The guard of each engine step (R103). -/
def engineGuard : EngineStep → State → Bool
  | .encConsume   => encConsumeGuard
  | .encEmitChar  => encEmitCharGuard
  | .encEmitDelim => encEmitDelimGuard
  | .encFinish    => encFinishGuard
  | .decConsume   => decConsumeGuard
  | .decFlush     => decFlushGuard
  | .decFinish    => decFinishGuard

/-- The effect of each engine step (R132, R134, R135, R136, R155, R158, R159). -/
def engineRun : EngineStep → State → State
  | .encConsume   => encConsume
  | .encEmitChar  => encEmitChar
  | .encEmitDelim => encEmitDelim
  | .encFinish    => encFinish
  | .decConsume   => decConsume
  | .decFlush     => decFlush
  | .decFinish    => decFinish

/-- The engine steps in the order of R103's table. -/
def engineSteps : List EngineStep :=
  [.encConsume, .encEmitChar, .encEmitDelim, .encFinish, .decConsume, .decFlush, .decFinish]

/-- The engine step that is enabled, if one is (R103: at most one). -/
def enabledStep (s : State) : Option EngineStep :=
  engineSteps.find? fun e => engineGuard e s

/-- A turn of the engine: its enabled step, or a wait that changes nothing (R14, R217, R239). -/
def engineTurn (s : State) : State :=
  match enabledStep s with
  | some e => engineRun e s
  | none   => s

/-- The guard of the step a turn names (R103). A turn of the engine may always pass: where no engine step is enabled the
engine waits (log 1). -/
def turnGuard : Turn → State → Bool
  | .regRead _,    _ => true
  | .regWrite _ _, _ => true
  | .offer _,      s => s.inSlot.isNone
  | .take,         s => s.outSlot.isSome
  | .reset,        _ => true
  | .engine,       _ => true

/-- The effect of the step a turn names (R90, R91, R94, R95, R230, R103). -/
def turnRun : Turn → State → Host.Outcome State Fault Refusal
  | .regRead off,    s => .next (regRead off s)
  | .regWrite off w, s => regWrite off w s
  | .offer b,        s => .next (hostOffer b s)
  | .take,           s => .next (hostTake s)
  | .reset,          s => .next (platformReset s)
  | .engine,         s => .next (engineTurn s)

/-- The moves still to come are `ts`. -/
def State.setTurns (s : State) (ts : List Turn) : State :=
  { s with host := { s.host with turns := ts } }

/-- One step after the first reset (R3, R103, log 1): the next turn is taken if its guard holds. A host whose move is not
enabled waits and the engine moves; with no turn listed the engine moves. -/
def liveStep (s : State) : Host.Outcome State Fault Refusal :=
  match s.host.turns with
  | [] => .next (engineTurn s)
  | m :: ts => if turnGuard m s then turnRun m (s.setTurns ts) else .next (engineTurn s)

/-- One step before the first reset (R232): Reset is taken, all else is refused. -/
def powerUpStep (s : State) : Host.Outcome State Fault Refusal :=
  match s.host.turns with
  | .reset :: ts => .next (platformReset (s.setTurns ts))
  | _ => .refused .beforeFirstReset

end Sys2Proof.Machine
end

