-- ==== Sys2Proof/Machine/Step.lean ====
section
/-! DEFINITION. The step of the machine, and a command word placed where the next step fetches it. -/

namespace Sys2Proof.Machine

/-- One atomic step of the host, the platform or the engine (R56, R103), or a wait. -/
def step (s : State) : Host.Outcome State Fault Refusal :=
  if s.resetSeen then liveStep s else powerUpStep s

/-- The host's next move is a write of the word to CMD (R22, R27, log 4): the bits of `w` above `nbits` are 0. -/
def State.withFetchWord (s : State) (nbits w : Nat) : State :=
  { s.setTurns (.regWrite cmdOffset (BitVec.ofNat 32 (w % 2 ^ nbits)) :: s.host.turns) with resetSeen := true }

end Sys2Proof.Machine
end

