-- ==== Sys2Proof/Machine/Streams.lean ====
section
/-! DEFINITION. What a whole job computes, as functions of the LUT and the job's input, written apart from the engine: code
strings (R13), the encoder's token stream (R75, R137), tokens (R151, R153), the decoder's output and skip count (R160, R161,
R163, R164), degenerate tables (R152). -/

namespace Sys2Proof.Machine

/-- The code string of a row, c_0 first: character i is bit `len - 1 - i` of the value (R13). -/
def Entry.bits (e : Entry) : List Bool :=
  (List.range e.len.toNat).map fun i => e.code.getLsbD (e.len.toNat - 1 - i)

/-- The code string as bytes (R75). -/
def Entry.chars (e : Entry) : List Byte :=
  e.bits.map bitChar

/-- The bytes of one input character: its code and one space (R75). -/
def encToken (lut : Lut) (b : Byte) : List Byte :=
  (lutAt lut (b.setWidth 7)).chars ++ [space]

/-- `Enc(LUT, t)` (R137). -/
def encStream (lut : Lut) (t : List Byte) : List Byte :=
  t.flatMap (encToken lut)

/-- The byte is a symbol with a valid row: both checks of R132 pass. -/
def encodable (lut : Lut) (b : Byte) : Bool :=
  decide (b.toNat < 0x80) && (lutAt lut (b.setWidth 7)).valid

/-- Every symbol in ascending order (R8). -/
def allSyms : List Sym :=
  (List.range Config.alphabetSize).map (BitVec.ofNat 7)

/-- The symbols of the valid rows, in ascending order (R34, R47 (a)). -/
def validSyms (lut : Lut) : List Sym :=
  allSyms.filter fun k => (lutAt lut k).valid

/-- No two symbols share a code (R115). -/
def Lut.Injective (lut : Lut) : Prop :=
  ∀ i j : Sym, (lutAt lut i).valid = true → (lutAt lut j).valid = true →
    (lutAt lut i).len = (lutAt lut j).len → (lutAt lut i).code = (lutAt lut j).code → i = j

/-- The LUT is degenerate with symbol `k`: exactly one valid row, and its len is 0 (R152). -/
def Lut.DegenerateAt (lut : Lut) (k : Sym) : Prop :=
  validSyms lut = [k] ∧ (lutAt lut k).len = 0

/-- The tokens of a stream, `cur` being the bytes of the token that is open (R153): maximal runs of token bytes; the end of
the input ends a token (R157). -/
def tokensFrom (cur : List Byte) : List Byte → List (List Byte)
  | [] => if cur.isEmpty then [] else [cur]
  | b :: u =>
    if isWhitespace b then
      if cur.isEmpty then tokensFrom [] u else cur :: tokensFrom [] u
    else tokensFrom (cur ++ [b]) u

/-- `tok(u)` (R153, R163). -/
def tokens (u : List Byte) : List (List Byte) :=
  tokensFrom [] u

/-- The ReverseSymbolTable's lookup of a whole token: the symbol whose code string it is (R160). A dead token is no code
string (R164). -/
def tokenSym (lut : Lut) (tok : List Byte) : Option Sym :=
  allSyms.find? fun k => (lutAt lut k).valid && (lutAt lut k).chars == tok

/-- The sole symbol of a degenerate table (R152). -/
def degenerateOf (lut : Lut) : Option Sym :=
  match validSyms lut with
  | [k] => if (lutAt lut k).len = 0 then some k else none
  | _ => none

/-- What a decode job delivers (R163). -/
def decStream (lut : Lut) (u : List Byte) : List Byte :=
  match degenerateOf lut with
  | some k => (u.filter (· == space)).map fun _ => k.setWidth 8
  | none   => ((tokens u).filterMap (tokenSym lut)).map fun k => k.setWidth 8

/-- How many tokens a decode job skips (R163). -/
def decSkips (lut : Lut) (u : List Byte) : Nat :=
  match degenerateOf lut with
  | some _ => (tokens u).length
  | none   => ((tokens u).filter fun tok => (tokenSym lut tok).isNone).length

end Sys2Proof.Machine
end

