-- ==== Sys2Proof/Machine/Reference.lean ====
section
/-! DEFINITION. The host reference procedure (R180 to R190): no part of the block (R6), written down because it says what a
table built from a text is, which R193's properties speak of. A text is a list of characters, as numbers. -/

namespace Sys2Proof.Reference

open Sys2Proof.Machine

/-- What the caller of a run is told (R191): the error kinds of the source, IOError apart (R6), and two names of the model's
for what has no kind in the source (log 13): `aborted`, a job the host itself aborted (R200), and `tokensSkipped`, a decode
job that skipped a token, where the host takes that as a failure (R161). -/
inductive HostError where
  | inputRange | emptyInput | queueUnderflow | missingCode | injectivity | aborted | tokensSkipped
  deriving DecidableEq, Repr

/-- A TreeNode (R184). -/
inductive Tree where
  | leaf (sym : Sym) (weight : Nat)
  | node (weight : Nat) (left right : Tree)
  deriving DecidableEq, Repr

/-- A SymbolTable: symbols and their code strings, '1' being true (R187). The spec's is a mapping; a list also has an order
and may name a symbol twice (log 13). -/
abbrev SymbolTable := List (Sym × List Bool)

/-! ## Frequency counter (R180) -/

/-- A FrequencyTable (R180). -/
abbrev Freq := Vector Nat 128

/-- What an entry of HOST_COUNT_WIDTH bits holds after a count of `n`: `n` where it fits, else a free value of that width,
since the spec does not say (R180, log 10). -/
def countIn : Option Nat → Nat → Nat
  | none, n => n
  | some w, n => if n < 2 ^ w then n else Config.overlongCount n % 2 ^ w

/-- One character counted, or InputRangeError (R180). -/
def countChar (width : Option Nat) (f : Freq) (ch : Nat) : Except HostError Freq :=
  if h : ch < 128 then .ok (f.set ch (countIn width (f[ch] + 1))) else .error .inputRange

/-- The characters counted one after another (R180). -/
def countText (width : Option Nat) : List Nat → Freq → Except HostError Freq
  | [], f => .ok f
  | ch :: text, f =>
    match countChar width f ch with
    | .ok f' => countText width text f'
    | .error e => .error e

/-- The FrequencyTable of a text (R180). -/
def frequencies (width : Option Nat) (text : List Nat) : Except HostError Freq :=
  countText width text (Vector.replicate 128 0)

/-- HOST_COUNT_WIDTH holds every count of the text (R180). -/
def CountsFit (width : Option Nat) (text : List Nat) : Prop :=
  ∀ w, width = some w → ∀ ch, text.count ch < 2 ^ w

/-! ## Trees (R184, R186) -/

/-- The weight of a tree (R184). -/
def Tree.weight : Tree → Nat
  | .leaf _ w => w
  | .node w _ _ => w

/-- `merge(t1, t2)`, the first tree removed being the left child (R184, R186). -/
def merge (t1 t2 : Tree) : Tree :=
  .node (t1.weight + t2.weight) t1 t2

/-! ## Priority queue (R181) with the reference tie-break (R183): an array h[0..size-1] as a list, `size()` its length -/

/-- The elements at `i` and `j` exchanged. -/
def swap (h : List Tree) (i j : Nat) : List Tree :=
  match h[i]?, h[j]? with
  | some a, some b => (h.set i b).set j a
  | _, _ => h

/-- The element at `a` goes before the one at `b`: it is lighter, strictly (R181, R183). -/
def lighter (h : List Tree) (a b : Nat) : Bool :=
  match h[a]?, h[b]? with
  | some x, some y => decide (x.weight < y.weight)
  | _, _ => false

/-- The element at `c` sifted toward the root while it is lighter than its parent (R181, R183); `fuel` bounds the depth. -/
def siftUp : Nat → List Tree → Nat → List Tree
  | 0, h, _ => h
  | fuel + 1, h, c =>
    if c ≠ 0 ∧ lighter h c ((c - 1) / 2) then siftUp fuel (swap h c ((c - 1) / 2)) ((c - 1) / 2) else h

/-- `insert(tree)` (R181). -/
def heapInsert (h : List Tree) (t : Tree) : List Tree :=
  siftUp h.length (h ++ [t]) h.length

/-- The child a sift down compares with: the right one only where it is lighter, strictly (R183). -/
def chosenChild (h : List Tree) (i : Nat) : Nat :=
  if lighter h (2 * i + 2) (2 * i + 1) then 2 * i + 2 else 2 * i + 1

/-- The element at `i` sifted down (R181, R183). -/
def siftDown : Nat → List Tree → Nat → List Tree
  | 0, h, _ => h
  | fuel + 1, h, i =>
    if lighter h (chosenChild h i) i then siftDown fuel (swap h (chosenChild h i) i) (chosenChild h i) else h

/-- `removeTop()` (R181): the root, and the heap with the last element in its place, sifted down. -/
def heapRemoveTop : List Tree → Except HostError (Tree × List Tree)
  | [] => .error .queueUnderflow
  | top :: rest =>
    match rest.getLast? with
    | none => .ok (top, [])
    | some last => .ok (top, siftDown rest.length (last :: rest.dropLast) 0)

/-- "every parent's priority ≥ both children's" (R193 (5)). -/
def HeapOrdered (h : List Tree) : Prop :=
  ∀ c x y, 0 < c → h[c]? = some x → h[(c - 1) / 2]? = some y → y.weight ≤ x.weight

/-! ## Tree builder (R185) -/

/-- The leaf trees of the symbols with non-zero frequency, in ascending order (R185). -/
def leaves (f : Freq) : List Tree :=
  allSyms.filterMap fun k =>
    if 0 < f[k.toNat]'k.isLt then some (.leaf k (f[k.toNat]'k.isLt)) else none

/-- The merging loop (R185); each round leaves one tree fewer, so the number of trees is fuel enough. -/
def buildLoop : Nat → List Tree → Except HostError Tree
  | 0, _ => .error .queueUnderflow
  | fuel + 1, q =>
    match heapRemoveTop q with
    | .error e => .error e
    | .ok (t1, q1) =>
      match q1 with
      | [] => .ok t1
      | _ :: _ =>
        match heapRemoveTop q1 with
        | .error e => .error e
        | .ok (t2, q2) => buildLoop fuel (heapInsert q2 (merge t1 t2))

/-- The HuffmanTree of a FrequencyTable under the reference choices (R183, R185, R186). -/
def buildTree (f : Freq) : Except HostError Tree :=
  match leaves f with
  | [] => .error .emptyInput
  | q => buildLoop q.length (q.foldl heapInsert [])

/-- What the builder may give under some HOST_TIE_BREAK and some HOST_CHILD_ORDER (R9, R182, R186): the two lightest trees
are merged, whichever they are among equals and whichever becomes the left child. -/
inductive Builds : List Tree → Tree → Prop where
  | done (t : Tree) : Builds [t] t
  | mergeLeft (q rest : List Tree) (t1 t2 r : Tree) (hq : q.Perm (t1 :: t2 :: rest))
      (h1 : t1.weight ≤ t2.weight) (h2 : ∀ t ∈ rest, t2.weight ≤ t.weight)
      (hr : Builds (merge t1 t2 :: rest) r) : Builds q r
  | mergeRight (q rest : List Tree) (t1 t2 r : Tree) (hq : q.Perm (t1 :: t2 :: rest))
      (h1 : t1.weight ≤ t2.weight) (h2 : ∀ t ∈ rest, t2.weight ≤ t.weight)
      (hr : Builds (merge t2 t1 :: rest) r) : Builds q r

/-! ## Code assigner (R187) -/

/-- `codes(tree, p)` (R187). -/
def codes : Tree → List Bool → SymbolTable
  | .leaf s _, p => [(s, p)]
  | .node _ l r, p => codes l (p ++ [false]) ++ codes r (p ++ [true])

/-- `SymbolTable(T)` under the reference choices (R187). -/
def symbolTable (width : Option Nat) (text : List Nat) : Except HostError SymbolTable :=
  match frequencies width text with
  | .error e => .error e
  | .ok f =>
    match buildTree f with
    | .error e => .error e
    | .ok t => .ok (codes t [])

/-- Weight conservation: every internal node weighs what its children weigh together (R193 (3)). -/
def Tree.Conserves : Tree → Prop
  | .leaf _ _ => True
  | .node w l r => w = l.weight + r.weight ∧ l.Conserves ∧ r.Conserves

/-! ## Host programs: pseudo-instructions (R78, R79), loading the LUT (R188) -/

/-- The code value of a code string (R13). -/
def codeValue (c : List Bool) : Nat :=
  c.foldl (fun v b => 2 * v + b.toNat) 0

/-- The row a loaded code string makes (R13, R111). The spec is silent on a string of more than 127 characters, which only
a parsed table can hold (R190); the model's host writes the low bits of its length and value, so that the row's len is
the length modulo 2^7 and its code the value's bits below that len (log 13). -/
def rowOf (c : List Bool) : Entry where
  valid := true
  len   := BitVec.ofNat 7 c.length
  code  := codeMask (BitVec.ofNat 7 c.length) (BitVec.ofNat 127 (codeValue c))

/-- The LUT after a SymbolTable is loaded into an empty one (R188); of two entries of one symbol the later wins (log 13). -/
def lutOf (table : SymbolTable) : Lut :=
  table.foldl (fun lut p => lut.set p.1.toNat (rowOf p.2) p.1.isLt) Lut.empty

/-- `cmd OPNAME`, `cmd OPNAME sym` (R78). -/
def cmdTurn (i : Instr) : Turn :=
  .regWrite cmdOffset (encode i)

/-- `LOADENT sym, L, v` (R79). R79 lets a host leave out the writes of ENT_CODE1 to ENT_CODE3 where those bits of `v` are 0 and
the registers already hold 0; the model's host always makes all six moves (log 13). -/
def loadEnt (k : Sym) (len : CodeLen) (v : BitVec 128) : List Turn :=
  [.regWrite 0x20 (len.setWidth 32),
   .regWrite 0x24 (v.extractLsb' 0 32),
   .regWrite 0x28 (v.extractLsb' 32 32),
   .regWrite 0x2C (v.extractLsb' 64 32),
   .regWrite 0x30 (v.extractLsb' 96 32),
   cmdTurn (.entWrite k)]

/-- `LOADCODE sym, "c0c1..."` (R79); a string of more than 127 characters as at `rowOf` (log 13). -/
def loadCode (k : Sym) (c : List Bool) : List Turn :=
  loadEnt k (BitVec.ofNat 7 c.length) (BitVec.ofNat 128 (codeValue c))

/-- `STREAMIN "bytes"` (R79): an offer waits until the byte before it is taken (log 1). -/
def streamIn (bytes : List Byte) : List Turn :=
  bytes.map Turn.offer

/-- `CLEARST` (R79). -/
def clearSt : List Turn :=
  [.regWrite 0x10 0x0000000E]

/-- The host's moves that load a SymbolTable (R188). The spec gives the entries no order; the model's host loads them in the
list's, for a built table the tree's leaves from left to right, so that the staging registers keep the last one's code
(log 13). -/
def loadTable (table : SymbolTable) : List Turn :=
  cmdTurn .tblClear :: table.flatMap fun p => loadCode p.1 p.2

/-- The host's moves that start a job of `n` bytes (R189, R190, R233 (6) (7)): IN_LEN, then the start command. -/
def startJob (i : Instr) (n : Word) : List Turn :=
  [.regWrite 0x14 n, cmdTurn i]

/-- The text as the bytes the encoder takes (R76). -/
def textBytes (text : List Nat) : List Byte :=
  text.map (BitVec.ofNat 8)

/-! ## What the procedure guarantees (R193) -/

/-- R193 of a text with frequencies `f` and a tree `t` built from them, one field for each of its properties (1), (2), (3),
(4), (6) and (8), in order. (5) is that `heapInsert` and `heapRemoveTop` keep `HeapOrdered`, (7) what `symbolTable` answers
on the empty text. (1) and (4) speak of the text's counts, which HOST_COUNT_WIDTH must hold (log 10). -/
structure R193 (width : Option Nat) (text : List Nat) (f : Freq) (t : Tree) : Prop where
  roundTrip : CountsFit width text →
    decStream (lutOf (codes t [])) (encStream (lutOf (codes t [])) (textBytes text)) = textBytes text
  prefixFree : ∀ p ∈ codes t [], ∀ q ∈ codes t [], p.2 <+: q.2 → p = q
  weights : t.Conserves ∧ t.weight = f.toList.sum
  countsAddUp : CountsFit width text → f.toList.sum = text.length
  oneSymbol : ∀ (k : Sym) (n : Nat), text = List.replicate n k.toNat →
    codes t [] = [(k, [])] ∧ decStream (lutOf (codes t [])) (List.replicate n 0x20) = textBytes text
  injective : (lutOf (codes t [])).Injective

end Sys2Proof.Reference
end

