-- ==== Sys2Proof/Safety.lean ====
section
/-! DEFINITION. What holds in every reachable state (R47), and a job's run from its start, over every interleaving of the
agents (R56, R103). -/

namespace Sys2Proof.Machine

/-- The invariants (a) to (h) of R47, one field each, in order; (e) has two halves. (i) speaks of a step: see `JobRun`. -/
structure State.R47 (s : State) : Prop where
  tableCountIsValidRows : s.tableCount.toNat = (validSyms s.lut).length
  busyIffJob : s.statusWord.getLsbD 0 = true ↔ s.eng.job ≠ .idle
  outSlotOnlyBusy : s.outSlot ≠ none → s.eng.job ≠ .idle
  doneErrNeverBoth : ¬(s.done = true ∧ s.err = true)
  errCodeOnlyWithErr : s.err = false → s.errCode = .noError
  causeOnlyWithCmdErr : s.cmdErr = false → s.cmdCause = .noCause
  codeBelowLen : ∀ (k : Sym) (i : Nat), (s.entry k).len.toNat ≤ i → (s.entry k).code.getLsbD i = false
  encActiveRow : s.eng.encActive = true →
    s.eng.job = .enc ∧ s.encEntry.valid = true ∧ s.eng.encPos.toNat ≤ s.encEntry.len.toNat
  idleNothingOpen : s.eng.job = .idle → s.eng.encActive = false ∧ s.eng.decIntok = false

/-- R47 and what else the rules keep in every reachable state: E is cleared while IDLE (R99), no flag of an earlier job
stands while a job runs (R98), a decode job runs on an injective table (R150), degenerate mode is what R152 says, an open
live token has 1 to 127 characters and a value of that many bits (R154, R160), IN_COUNT and E.remaining together stay
within 32 bits (R30), an encode job leaves the decoder's state alone, and an invalid row holds zeros (R38). -/
structure State.Inv (s : State) : Prop extends State.R47 s where
  idleCleared : s.eng.job = .idle → s.eng = Engine.cleared
  runningUnflagged : s.eng.job ≠ .idle → s.done = false ∧ s.err = false
  decInjective : s.eng.job = .dec → s.lut.Injective
  degenMode : s.eng.job = .dec → ∀ k, (s.eng.degen = true ∧ s.eng.degSym = k) ↔ s.lut.DegenerateAt k
  degenOnlyDec : s.eng.degen = true → s.eng.job = .dec
  liveToken : s.eng.decIntok = true → s.eng.decDead = false →
    1 ≤ s.eng.decLen.toNat ∧ s.eng.decAcc.toNat < 2 ^ s.eng.decLen.toNat
  countsFit : s.eng.job ≠ .idle → s.inCount.toNat + s.eng.remaining.toNat < 2 ^ 32
  tokenOnlyDec : s.eng.decIntok = true → s.eng.job = .dec
  invalidRowsZero : ∀ k : Sym, (s.entry k).valid = false → s.entry k = Entry.invalid

/-- A job of this kind has just started: nothing is consumed, emitted or skipped (R98, R130, R150). -/
structure JustStarted (kind : Job) (s : State) : Prop where
  jobRuns : s.eng.job = kind
  nothingConsumed : s.inCount = 0
  nothingTaken : s.outCount = 0
  nothingSkipped : s.skipCount = 0
  nothingHeld : s.outSlot = none
  noCodeOpen : s.eng.encActive = false
  noTokenOpen : s.eng.decIntok = false

/-- The input byte a step took from IN.slot, told by IN_COUNT (R30). -/
def consumed (s t : State) : List Byte :=
  if t.inCount = s.inCount then [] else s.inSlot.toList

/-- Steps of the machine during which a job of this kind goes on, whatever the host and the platform do between the
engine's steps (R56); the list is the input the job has consumed, in order. -/
inductive JobRun (kind : Job) (s : State) : List Byte → State → Prop where
  | start (hs : s.eng.job = kind) : JobRun kind s [] s
  | more (bs : List Byte) (t u : State) (hr : JobRun kind s bs t) (ht : step t = .next u) (hu : u.eng.job = kind) :
      JobRun kind s (bs ++ consumed t u) u

/-- A job of this kind started in `s`, consumed `bs`, and a step ended it in `u`: BUSY is 0, and DONE or ERR is 1 (R240).
A job that Reset discards has no end. -/
def JobEnds (kind : Job) (s : State) (bs : List Byte) (u : State) : Prop :=
  ∃ (bs' : List Byte) (t : State), JobRun kind s bs' t ∧ step t = .next u ∧ u.eng.job = .idle ∧
    (u.done = true ∨ u.err = true) ∧ bs = bs' ++ consumed t u

/-- The next move writes a word to CMD that decodes to this command. -/
abbrev CommandIsNext (i : Instr) (s : State) : Prop :=
  ∃ off w ts, s.host.turns = .regWrite off w :: ts ∧ off.extractLsb' 2 4 = 3 ∧ decode w = .command i

/-- The next move is Reset. -/
abbrev ResetIsNext (s : State) : Prop :=
  ∃ ts, s.host.turns = .reset :: ts

/-- The next move writes 1 to bit `n` of STATUS (R91). -/
abbrev W1CIsNext (n : Nat) (s : State) : Prop :=
  ∃ off w ts, s.host.turns = .regWrite off w :: ts ∧ off.extractLsb' 2 4 = 4 ∧ w.getLsbD n = true

/-- The next move writes a word to CMD that is rejected (R74). -/
abbrev RejectIsNext (s : State) : Prop :=
  ∃ off w ts, s.host.turns = .regWrite off w :: ts ∧ off.extractLsb' 2 4 = 3 ∧
    ((∃ why, decode w = .illegal why) ∨
      (s.eng.job ≠ .idle ∧ ∃ i, decode w = .command i ∧ i ≠ .nop ∧ i ≠ .abort))

/-- The next move is a command that starts a job or a table check, and it is accepted (R98). -/
abbrev JobStartIsNext (s : State) : Prop :=
  s.eng.job = .idle ∧ (CommandIsNext .encStart s ∨ CommandIsNext .decStart s ∨ CommandIsNext .tblCheck s)

/-- The step from `s` to `t` is this engine step, which was enabled (R103): the engine's own turn, or one a waiting host
leaves to it (log 1). -/
abbrev EngineTakes (e : EngineStep) (s t : State) : Prop :=
  engineGuard e s = true ∧
    ∃ ts, (ts = s.host.turns ∨ s.host.turns = .engine :: ts) ∧ t = engineRun e (s.setTurns ts)

/-! ## Fairness (R239, R241): runs without end, in which host and platform move as they like -/

/-- `t` comes next after `s`, whatever moves the host and the platform are about to make (R3, R103). -/
def Follows (s t : State) : Prop :=
  ∃ ts, step (s.setTurns ts) = .next t

/-- A run without end. -/
def Run (σ : Nat → State) : Prop :=
  ∀ n, Follows (σ n) (σ (n + 1))

/-- The duty of the host (R239): while BUSY, if IN.slot is empty and input remains, it eventually offers, and if OUT.slot is
full, it eventually takes; the duty ends with the job. -/
structure FairHost (σ : Nat → State) : Prop where
  offers : ∀ n, (σ n).busy = true → (σ n).inSlot = none → 0 < (σ n).eng.remaining.toNat →
    ∃ m, n ≤ m ∧ ((σ m).inSlot ≠ none ∨ (σ m).busy = false)
  takes : ∀ n, (σ n).busy = true → (σ n).outSlot ≠ none →
    ∃ m, n ≤ m ∧ ((σ m).outSlot = none ∨ (σ m).busy = false)

/-- Weak fairness of the engine (R241): an engine step that stays enabled is eventually taken. -/
def FairEngine (σ : Nat → State) : Prop :=
  ∀ n, ∃ m, n ≤ m ∧
    ((∀ e, engineGuard e (σ m) = false) ∨ ∃ ts, σ (m + 1) = engineTurn ((σ m).setTurns ts))

end Sys2Proof.Machine
end

