-- ==== Sys2Proof/Machine/Framing.lean ====
section
/-! DEFINITION. What the host makes of the block: waiting for it and draining it (R79), a job of the host over every
interleaving, compression (R189), decompression (R190), and the errors its caller is told (R191). Beside the block, as
Machine/Reference.lean is (R6). -/

namespace Sys2Proof.Reference

open Sys2Proof.Machine

/-! ## The pseudo-instructions that watch the block: WAITJOB and DRAIN (R79) -/

/-- The step from `s` to `t` makes the host's next move `m`. -/
def HostMoves (m : Turn) (s t : State) : Prop :=
  s.host.turns.head? = some m ∧ turnGuard m s = true ∧ step s = .next t

/-- The step from `s` to `t` is the engine's or the platform's: the host makes no move in it. -/
def HostHolds (s t : State) : Prop :=
  (∀ m, s.host.turns.head? = some m → m = .engine ∨ m = .reset ∨ turnGuard m s = false) ∧ step s = .next t

/-- A step between the host's looks at the block, in which the host makes the moves `ms`: an offer, a take, or none. -/
def Streams (ms : List Turn) (s t : State) : Prop :=
  (ms = [] ∧ HostHolds s t) ∨ ∃ m, (m = .take ∨ ∃ b, m = .offer b) ∧ ms = [m] ∧ HostMoves m s t

/-- `WAITJOB` (R79): STATUS is read until bit 0 of the word read is 0, all agents moving between the reads; `ms` are the
offers and takes the host makes meanwhile, as its program says. -/
inductive WaitJob : List Turn → State → State → Prop where
  | stop (s t : State) (hm : HostMoves (.regRead 0x10) s t) (hb : t.host.readData.map (·.getLsbD 0) = some false) :
      WaitJob [] s t
  | again (ms : List Turn) (s t u : State) (hm : HostMoves (.regRead 0x10) s t)
      (hb : t.host.readData.map (·.getLsbD 0) = some true) (hr : WaitJob ms t u) : WaitJob ms s u
  | meanwhile (ms ms' : List Turn) (s t u : State) (hs : Streams ms s t) (hr : WaitJob ms' t u) :
      WaitJob (ms ++ ms') s u

/-- `DRAIN` (R79): the host takes until no job runs and OUT.slot is empty; `ms` are its takes, with the offers of a
`STREAMIN` interleaved with it. -/
inductive Drain : List Turn → State → State → Prop where
  | stop (s : State) (hb : s.busy = false) (ho : s.outSlot = none) : Drain [] s s
  | meanwhile (ms ms' : List Turn) (s t u : State) (hd : s.busy = true ∨ s.outSlot ≠ none) (hs : Streams ms s t)
      (hr : Drain ms' t u) : Drain (ms ++ ms') s u

/-! ## Jobs of the host, and its two transforms -/

/-- The table of R191, read from a block error code (R200). ABORTED has no kind in the source (log 13). -/
def surfaced : ErrCode → Option HostError
  | .noError     => none
  | .inputRange  => some .inputRange
  | .emptyInput  => some .emptyInput
  | .missingCode => some .missingCode
  | .injectivity => some .injectivity
  | .aborted     => some .aborted

/-- From `s` the host makes the moves `ms`, one step each, and `t` is the state then; its moves after them are open. -/
def Makes (ms : List Turn) (s t : State) : Prop :=
  ∃ ts, core.run ms.length (s.setTurns (ms ++ ts)) = .next t

/-- The host writes IN_LEN, the length of the input, and the start command (R189, R190). The spec does not say what it does
with an input whose length does not fit IN_LEN's 32 bits; the model gives such a job no outcome (log 13). -/
def StartsJob (i : Instr) (input : List Byte) (s t : State) : Prop :=
  input.length < 2 ^ 32 ∧ Makes (startJob i (BitVec.ofNat 32 input.length)) s t

/-- The host takes a job that ended with DONE as a failure: SKIP_COUNT is not 0 and its policy is to fail then. The spec
leaves the policy to the host (R161), so it is a parameter (log 13). -/
def rejects (P : HostParams) (u : State) : Bool :=
  P.skipsFail && u.skipCount != 0

/-- What the host gets from a job on `input`, however the agents interleave: the bytes it took, or the error, in its own
start step (R205) or later (R203). Output of a failed job is discarded (R237). That a job with skipped tokens succeeds for
one host and fails for another is the host's policy, `rejects` (log 13). -/
inductive HostJob (P : HostParams) (i : Instr) (kind : Job) (input : List Byte) (s : State) :
    Except HostError (List Byte) → Prop where
  | notStarted (t : State) (e : HostError) (hs : StartsJob i input s t) (hidle : t.eng.job = .idle)
      (herr : t.err = true) (he : surfaced t.errCode = some e) : HostJob P i kind input s (.error e)
  | failed (t u : State) (bs : List Byte) (e : HostError) (hs : StartsJob i input s t) (hr : JobEnds kind t bs u)
      (hb : bs <+: input) (herr : u.err = true) (he : surfaced u.errCode = some e) :
      HostJob P i kind input s (.error e)
  | skipped (t u : State) (hs : StartsJob i input s t) (hr : JobEnds kind t input u) (hdone : u.done = true)
      (hk : rejects P u = true) : HostJob P i kind input s (.error .tokensSkipped)
  | delivered (t u : State) (out : List Byte) (hs : StartsJob i input s t) (hr : JobEnds kind t input u)
      (hdone : u.done = true) (hk : rejects P u = false) (ho : u.host.taken = t.host.taken ++ out) :
      HostJob P i kind input s (.ok out)

/-- A SymbolTable of the text, under some tie-break and child order (R180, R185, R187). -/
def TableOf (width : Option Nat) (text : List Nat) (table : SymbolTable) : Prop :=
  ∃ f t, frequencies width text = .ok f ∧ Builds (leaves f) t ∧ table = codes t []

/-- The file of a table and a token stream: table section, separator, token stream (R189). -/
def fileOf (P : HostParams) (table : SymbolTable) (coded : List Byte) : List Byte :=
  P.tableBlob table ++ P.separatorBytes ++ coded

/-- The serialized form is self-describing (R189): read from the front of any file, it says where it ends and, in some
order, which symbol has which code, so that it "can be deserialized back into a SymbolTable" (R190). -/
def SelfDescribing (P : HostParams) : Prop :=
  ∀ table table' rest rest', P.tableBlob table ++ rest = P.tableBlob table' ++ rest' → table.Perm table' ∧ rest = rest'

/-- A compression of the text with the block in state `s` (R189): the table is built and loaded (R188), an encode job on
the whole text gives the token stream. Between the load and the job the model's host makes no move: the TBL_CHECK that
R233 (5) leaves to it is never issued, and no byte is offered before the start command (log 13). Every error is what the
caller gets, and then there is no file (R191, R237). -/
inductive Compresses (P : HostParams) (text : List Nat) (s : State) : Except HostError (List Byte) → Prop where
  | notCounted (e : HostError) (hf : frequencies P.countWidth text = .error e) : Compresses P text s (.error e)
  | noSymbol (f : Freq) (hf : frequencies P.countWidth text = .ok f) (hl : leaves f = []) :
      Compresses P text s (.error .emptyInput)
  | encoded (table : SymbolTable) (t : State) (r file : Except HostError (List Byte)) (ht : TableOf P.countWidth text table)
      (hidle : s.eng.job = .idle) (hl : Makes (loadTable table) s t)
      (hj : HostJob P .encStart .enc (textBytes text) t r) (hf : file = r.map (fileOf P table)) :
      Compresses P text s file

/-- The table is loaded, and a decode job on the token stream gives the text or the error (R190 2 to 4, R191). Between the
two the model's host makes no move: it issues no TBL_CHECK, which R233 (5) leaves to it and R191 names as a source of
InjectivityError, and offers no byte before the start command (log 13). -/
def Restores (P : HostParams) (table : SymbolTable) (coded : List Byte) (s : State)
    (r : Except HostError (List Byte)) : Prop :=
  s.eng.job = .idle ∧ ∃ t, Makes (loadTable table) s t ∧ HostJob P .decStart .dec coded t r

/-- A decompression of the file with the block in state `s` (R190): the first section is the serialized form of a table, the
separator's bytes are stripped exactly (R238), and the job's input is the bytes after them. A file that does not begin
with the two has no outcome here (R6, log 13). Of a section that names a symbol twice the spec says nothing; the model
takes it as any other, and the later entry wins (log 13). -/
def Decompresses (P : HostParams) (file : List Byte) (s : State) (r : Except HostError (List Byte)) : Prop :=
  ∃ table coded, file = fileOf P table coded ∧ Restores P table coded s r

end Sys2Proof.Reference
end

