-- ==== Sys2Proof/Certificates/Slice0/Obligations.lean ====
section
/-! DEFINITION. The statements about the model, from the spec's numbered rules. -/

open Sys2Proof Sys2Proof.Machine

/-! ## Encoding of command words -/

/-- R80: a command's word is `zext_32(OP) OR (zext_32(sym) << 8)`, with the OP values of R73; R80's three examples. -/
def Obligations.CommandWordIsOpAndShiftedSym : Prop :=
  (∀ i : Instr, encode i = (opcode i).setWidth 32 ||| ((symField i).setWidth 32 <<< 8)) ∧
  encode (.entWrite 0x61) = 0x00006102 ∧ encode .encStart = 0x00000008 ∧ encode .abort = 0x0000000F

/-- R71, R73, R81: decoding reads back every command with its operand, and a word that decodes to a command is that
command's own word: no two words spell one command. -/
def Obligations.DecodeAcceptsExactlyTheEncodings : Prop :=
  (∀ i : Instr, decode (encode i) = .command i) ∧
  (∀ (w : Word) (i : Instr), decode w = .command i → w = encode i)

/-- R73, R74 (1) (2), R81: which words are rejected, and with which cause; OP is tested first. -/
def Obligations.DecodeRejectsByOpThenReservedBits : Prop :=
  ∀ w : Word,
    (decode w = .illegal .illegalOp ↔ (w.extractLsb' 0 4).toNat ∈ [0x6, 0x7, 0xA, 0xB, 0xC, 0xD, 0xE]) ∧
    (decode w = .illegal .reservedBits ↔
      (w.extractLsb' 0 4).toNat ∉ [0x6, 0x7, 0xA, 0xB, 0xC, 0xD, 0xE] ∧
      (w.extractLsb' 4 4 ≠ 0 ∨ w.extractLsb' 15 17 ≠ 0 ∨
        ((w.extractLsb' 0 4).toNat ∉ [0x2, 0x3, 0x4] ∧ w.extractLsb' 8 7 ≠ 0))) ∧
    ((∃ i, decode w = .command i) ↔ (fieldsOfWord w).wf = true)

/-- R71, R73, R74: words written out from the spec's encoding, one of each command and the rejected words of V-C1 to V-C7. -/
def Obligations.SampleWordsDecode : Prop :=
  decode 0x00000000 = .command .nop ∧ decode 0x00000001 = .command .tblClear ∧
  decode 0x00007F02 = .command (.entWrite 0x7F) ∧ decode 0x00006203 = .command (.entRead 0x62) ∧
  decode 0x00006304 = .command (.entInval 0x63) ∧ decode 0x00000005 = .command .tblCheck ∧
  decode 0x00000008 = .command .encStart ∧ decode 0x00000009 = .command .decStart ∧
  decode 0x0000000F = .command .abort ∧
  decode 0x00000006 = .illegal .illegalOp ∧ decode 0x00000016 = .illegal .illegalOp ∧
  decode 0x0000000E = .illegal .illegalOp ∧ decode 0x00000100 = .illegal .reservedBits ∧
  decode 0x000000A0 = .illegal .reservedBits ∧ decode 0x00000012 = .illegal .reservedBits ∧
  decode 0x00008002 = .illegal .reservedBits

/-! ## The step: register port, stream ports, reset, engine -/

/-- R92: when the host's next move writes a word that decodes to a command to CMD, the step is `exec` of that command, the
move being used up (moves still to come are the model's, log 1). While a job runs `exec` itself rejects the seven commands
that R93 names: the BUSY test of R92 stands inside `exec` (the model's choice, log 11). -/
def Obligations.StepRunsTheDecodedCommand : Prop :=
  ∀ (s : State) (off : BitVec 6) (w : Word) (ts : List Turn) (i : Instr),
    s.resetSeen = true → s.host.turns = .regWrite off w :: ts → off.extractLsb' 2 4 = 3 → decode w = .command i →
    step s = exec i (s.setTurns ts)

/-- R92: dispatch of a word the host's next move (log 1) writes to CMD. An illegal word is rejected with its cause, a
command other than NOP and ABORT while a job runs with BUSY, all else is executed; a rejected command changes CMD_ERR and
CMD_CAUSE only. -/
def Obligations.CmdWriteIsDispatched : Prop :=
  ∀ (s : State) (off : BitVec 6) (w : Word) (ts : List Turn),
    s.resetSeen = true → s.host.turns = .regWrite off w :: ts → off.extractLsb' 2 4 = 3 →
    (decode w = .illegal .illegalOp →
      step s = .next { s.setTurns ts with cmdErr := true, cmdCause := .illegalOp }) ∧
    (decode w = .illegal .reservedBits →
      step s = .next { s.setTurns ts with cmdErr := true, cmdCause := .reservedBits }) ∧
    (∀ i, decode w = .command i → s.eng.job ≠ .idle → i ≠ .nop → i ≠ .abort →
      step s = .next { s.setTurns ts with cmdErr := true, cmdCause := .busy }) ∧
    (∀ i, decode w = .command i → (s.eng.job = .idle ∨ i = .nop ∨ i = .abort) → step s = exec i (s.setTurns ts))

/-- R91: what a register write, as the host's next move (log 1), does at every register number off[5:2]; everything else
stays. -/
def Obligations.RegisterWriteEffects : Prop :=
  ∀ (s : State) (off : BitVec 6) (w : Word) (ts : List Turn),
    s.resetSeen = true → s.host.turns = .regWrite off w :: ts →
    ((off.extractLsb' 2 4).toNat ∈ [0x0, 0x1, 0x6, 0x7, 0xD, 0xE, 0xF] → step s = .next (s.setTurns ts)) ∧
    (off.extractLsb' 2 4 = 0x2 → step s = .next { s.setTurns ts with ctrl := w.extractLsb' 0 3 }) ∧
    (off.extractLsb' 2 4 = 0x3 → step s = dispatch w (s.setTurns ts)) ∧
    (off.extractLsb' 2 4 = 0x4 → step s = .next { s.setTurns ts with
      done := s.done && !w.getLsbD 1
      err := s.err && !w.getLsbD 2
      errCode := if w.getLsbD 2 = true then .noError else s.errCode
      cmdErr := s.cmdErr && !w.getLsbD 3
      cmdCause := if w.getLsbD 3 = true then .noCause else s.cmdCause }) ∧
    (off.extractLsb' 2 4 = 0x5 → step s = .next { s.setTurns ts with inLen := w }) ∧
    (off.extractLsb' 2 4 = 0x8 → step s = .next { s.setTurns ts with entLen := w.extractLsb' 0 7 }) ∧
    (off.extractLsb' 2 4 = 0x9 → step s = .next { s.setTurns ts with entCode0 := w }) ∧
    (off.extractLsb' 2 4 = 0xA → step s = .next { s.setTurns ts with entCode1 := w }) ∧
    (off.extractLsb' 2 4 = 0xB → step s = .next { s.setTurns ts with entCode2 := w }) ∧
    (off.extractLsb' 2 4 = 0xC → step s = .next { s.setTurns ts with entCode3 := w })

/-- R90, R52, R53: what a register read returns at every register number off[5:2] (offset bits [1:0] play no part); the
block does not change, only the host has the word (log 1, log 2). -/
def Obligations.RegisterReadValues : Prop :=
  ∀ (s : State) (off : BitVec 6) (ts : List Turn),
    s.resetSeen = true → s.host.turns = .regRead off :: ts →
    ∃ v : Word,
      step s = .next { s with host := { turns := ts, readData := some v, taken := s.host.taken } } ∧
      [0x48554646, 0x0080077F, s.ctrl.setWidth 32, 0, s.statusWord, s.inLen, s.inCount, s.outCount,
        ((BitVec.ofBool s.entValid).setWidth 32 <<< 31) ||| s.entLen.setWidth 32,
        s.entCode0, s.entCode1, s.entCode2, s.entCode3, s.tableCount.setWidth 32, s.errInfo,
        s.skipCount][(off.extractLsb' 2 4).toNat]? = some v

/-- R28, R200, R201: the fields of STATUS at their bits; reserved bits read 0; the numbers of the error codes, of the causes
and of the kinds of job. -/
def Obligations.StatusFieldsAtTheirBits : Prop :=
  (∀ s : State,
    (s.statusWord.getLsbD 0 = true ↔ s.eng.job ≠ .idle) ∧
    s.statusWord.getLsbD 1 = s.done ∧ s.statusWord.getLsbD 2 = s.err ∧ s.statusWord.getLsbD 3 = s.cmdErr ∧
    s.statusWord.extractLsb' 4 4 = s.errCode.code ∧ s.statusWord.extractLsb' 8 2 = s.jobKind.code ∧
    s.statusWord.getLsbD 10 = s.statusDegen ∧ s.statusWord.getLsbD 11 = false ∧
    s.statusWord.extractLsb' 12 2 = s.cmdCause.code ∧ s.statusWord.extractLsb' 14 18 = 0) ∧
  (ErrCode.noError.code = 0 ∧ ErrCode.inputRange.code = 1 ∧ ErrCode.emptyInput.code = 2 ∧
    ErrCode.missingCode.code = 3 ∧ ErrCode.injectivity.code = 4 ∧ ErrCode.aborted.code = 5) ∧
  (CmdCause.noCause.code = 0 ∧ CmdCause.illegalOp.code = 1 ∧ CmdCause.reservedBits.code = 2 ∧
    CmdCause.busy.code = 3) ∧
  (JobKind.noJob.code = 0 ∧ JobKind.encode.code = 1 ∧ JobKind.decode.code = 2 ∧ JobKind.check.code = 3)

/-- R94, R95: an offer fills an empty IN.slot, a take moves the held byte to the host and counts it, and neither changes
anything else; a host whose move is not enabled waits, the move staying next, while the engine moves (R14; the model's
choice, log 1, log 2). -/
def Obligations.OfferAndTakeOnePortByte : Prop :=
  ∀ (s : State) (ts : List Turn), s.resetSeen = true →
    (∀ b, s.host.turns = .offer b :: ts → s.inSlot = none →
      step s = .next { s.setTurns ts with inSlot := some b }) ∧
    (∀ b, s.host.turns = .take :: ts → s.outSlot = some b →
      step s = .next { s with
        outSlot := none
        outCount := s.outCount + 1
        host := { turns := ts, readData := s.host.readData, taken := s.host.taken ++ [b] } }) ∧
    (∀ b c, s.host.turns = .offer b :: ts → s.inSlot = some c → step s = .next (engineTurn s)) ∧
    (s.host.turns = .take :: ts → s.outSlot = none → step s = .next (engineTurn s))

/-- R46, R230, R231: Reset, at any time and also as the first step after power-up, leaves every register, LUT row, engine
variable, OUT.slot and irq at the value of R46, keeps IN.slot, and takes nothing back from the host (log 1, log 2). -/
def Obligations.ResetGivesEveryResetValue : Prop :=
  ∀ (s : State) (ts : List Turn), s.host.turns = .reset :: ts →
    ∃ t, step s = .next t ∧ t.resetSeen = true ∧
      t.readReg .id = 0x48554646 ∧ t.readReg .param = 0x0080077F ∧
      (∀ r, r ≠ .id → r ≠ .param → t.readReg r = 0) ∧
      (∀ k, t.entry k = { valid := false, len := 0, code := 0 }) ∧
      t.eng = { job := .idle, remaining := 0, encActive := false, encSym := 0, encPos := 0, decIntok := false,
                decDead := false, decLen := 0, decAcc := 0, degen := false, degSym := 0 } ∧
      t.outSlot = none ∧ t.irq = false ∧ t.inSlot = s.inSlot ∧
      t.host = { turns := ts, readData := s.host.readData, taken := s.host.taken }

/-- R232: before the first reset every step but Reset is refused; the engine's steps too, and the flag that a reset was
seen, are the model's choice (log 3). -/
def Obligations.BeforeFirstResetOnlyResetIsTaken : Prop :=
  ∀ s : State, s.resetSeen = false →
    ((∀ ts, s.host.turns ≠ .reset :: ts) → step s = .refused .beforeFirstReset) ∧
    (∀ ts, s.host.turns = .reset :: ts → ∃ t, step s = .next t ∧ t.resetSeen = true)

/-- R103: the guards of the seven engine steps as the table gives them, and at most one of them is enabled in a state. -/
def Obligations.EngineGuardsAsTabulatedAndExclusive : Prop :=
  (∀ s : State,
    (engineGuard .encConsume s = true ↔
      s.eng.job = .enc ∧ s.eng.encActive = false ∧ 0 < s.eng.remaining ∧ s.inSlot ≠ none) ∧
    (engineGuard .encEmitChar s = true ↔
      s.eng.job = .enc ∧ s.eng.encActive = true ∧ s.eng.encPos.toNat < (s.entry s.eng.encSym).len.toNat ∧
        s.outSlot = none) ∧
    (engineGuard .encEmitDelim s = true ↔
      s.eng.job = .enc ∧ s.eng.encActive = true ∧ s.eng.encPos.toNat = (s.entry s.eng.encSym).len.toNat ∧
        s.outSlot = none) ∧
    (engineGuard .encFinish s = true ↔
      s.eng.job = .enc ∧ s.eng.encActive = false ∧ s.eng.remaining = 0 ∧ s.outSlot = none) ∧
    (engineGuard .decConsume s = true ↔
      s.eng.job = .dec ∧ 0 < s.eng.remaining ∧ s.inSlot ≠ none ∧ s.outSlot = none) ∧
    (engineGuard .decFlush s = true ↔
      s.eng.job = .dec ∧ s.eng.remaining = 0 ∧ s.eng.decIntok = true ∧ s.outSlot = none) ∧
    (engineGuard .decFinish s = true ↔
      s.eng.job = .dec ∧ s.eng.remaining = 0 ∧ s.eng.decIntok = false ∧ s.outSlot = none)) ∧
  (∀ (s : State) (e e' : EngineStep), engineGuard e s = true → engineGuard e' s = true → e = e')

/-- R103: after the first reset every step is one enabled step of one agent, or a wait that changes no state of the block
and happens only where no engine step is enabled (waits are the model's choice, log 1). -/
def Obligations.EveryStepIsOneEnabledStepOrAWait : Prop :=
  ∀ s t : State, s.resetSeen = true → step s = .next t →
    (∃ m ts, s.host.turns = m :: ts ∧ m ≠ .engine ∧ turnGuard m s = true ∧ turnRun m (s.setTurns ts) = .next t) ∨
    (∃ e ts, (ts = s.host.turns ∨ s.host.turns = .engine :: ts) ∧ engineGuard e s = true ∧
      t = engineRun e (s.setTurns ts)) ∨
    (∃ ts, (ts = s.host.turns ∨ s.host.turns = .engine :: ts) ∧ (∀ e, engineGuard e s = false) ∧ t = s.setTurns ts)

/-- R3, R103: any enabled step may be taken next: some list of moves makes the next step that one (log 1). -/
def Obligations.AnyEnabledStepMayBeTakenNext : Prop :=
  ∀ (s : State) (ts : List Turn), s.resetSeen = true →
    (∀ e, engineGuard e s = true → step (s.setTurns (.engine :: ts)) = .next (engineRun e (s.setTurns ts))) ∧
    (∀ m, turnGuard m s = true → step (s.setTurns (m :: ts)) = turnRun m (s.setTurns ts))

/-! ## The commands: each completes, with its result and its frame -/

/-- R96: NOP is accepted in any state, BUSY or not, and does nothing; its word is 0; a word with OP 0 and any other bit set,
written to CMD, is rejected with RESERVED_BITS and changes CMD_ERR and CMD_CAUSE only. -/
def Obligations.NopDoesNothingInAnyState : Prop :=
  (∀ s, exec .nop s = .next s) ∧ encode .nop = 0x00000000 ∧ (∀ s, dispatch 0x00000000 s = .next s) ∧
  (∀ (s : State) (w : Word), w.extractLsb' 0 4 = 0 → w ≠ 0 →
    dispatch w s = .next { s with cmdErr := true, cmdCause := .reservedBits })

/-- R97, R203: ABORT ends a running job with ERR and ERRCODE 5, clears the engine and drops OUT.slot; with no job it does
nothing. Everything else stays: the counters, the LUT, IN.slot, CTRL, the staging registers, CMD_ERR. -/
def Obligations.AbortEndsARunningJob : Prop :=
  ∀ s, (s.eng.job = .idle → exec .abort s = .next s) ∧
    (s.eng.job ≠ .idle → exec .abort s = .next { s with
      eng := Engine.cleared
      outSlot := none
      err := true
      errCode := .aborted
      errInfo := 0 })

/-- R93: while a job runs the seven other commands are rejected with cause BUSY, and change CMD_ERR and CMD_CAUSE only; NOP
and ABORT are accepted: they leave CMD_ERR and CMD_CAUSE as they are. None of the nine changes the LUT. -/
def Obligations.OnlyNopAndAbortAreAcceptedWhileBusy : Prop :=
  ∀ (s : State) (i : Instr), s.eng.job ≠ .idle →
    (i ≠ .nop → i ≠ .abort → exec i s = .next { s with cmdErr := true, cmdCause := .busy }) ∧
    (i = .nop ∨ i = .abort →
      ∃ t, exec i s = .next t ∧ t.cmdErr = s.cmdErr ∧ t.cmdCause = s.cmdCause ∧ t.lut = s.lut)

/-- R110: TBL_CLEAR with no job running makes every row invalid, with len and code 0, and TABLE_COUNT 0; nothing else
changes. -/
def Obligations.TblClearEmptiesTheLut : Prop :=
  ∀ s, s.eng.job = .idle →
    ∃ t, exec .tblClear s = .next t ∧ t = { s with lut := t.lut, tableCount := 0 } ∧
      ∀ k, t.entry k = { valid := false, len := 0, code := 0 }

/-- R111, R72: ENT_WRITE with no job running stores a valid row of length ENT_LEN.LEN whose code is STAGE_CODE modulo
2^LEN, counts it if the row was invalid, and changes no other row and nothing else. -/
def Obligations.EntWriteStoresTheStagedCode : Prop :=
  ∀ (s : State) (k : Sym), s.eng.job = .idle →
    ∃ t, exec (.entWrite k) s = .next t ∧ t = { s with lut := t.lut, tableCount := t.tableCount } ∧
      (t.entry k).valid = true ∧ (t.entry k).len = s.entLen ∧
      (t.entry k).code.toNat = s.stageCode.toNat % 2 ^ s.entLen.toNat ∧
      (∀ j, j ≠ k → t.entry j = s.entry j) ∧
      t.tableCount = if (s.entry k).valid = true then s.tableCount else s.tableCount + 1

/-- R113, R33: ENT_READ with no job running copies a valid row to the staging registers, gives zeros for an invalid one, and
changes nothing else. -/
def Obligations.EntReadCopiesTheRowToStaging : Prop :=
  ∀ (s : State) (k : Sym), s.eng.job = .idle →
    ∃ t, exec (.entRead k) s = .next t ∧
      t = { s with
        entValid := t.entValid, entLen := t.entLen, entCode0 := t.entCode0, entCode1 := t.entCode1
        entCode2 := t.entCode2, entCode3 := t.entCode3 } ∧
      ((s.entry k).valid = true → t.entValid = true ∧ t.entLen = (s.entry k).len ∧
        t.stageCode.toNat = (s.entry k).code.toNat) ∧
      ((s.entry k).valid = false → t.entValid = false ∧ t.entLen = 0 ∧ t.stageCode = 0)

/-- R114: ENT_INVAL with no job running makes one row invalid, with len and code 0, uncounts it if it was valid, and changes
no other row and nothing else. -/
def Obligations.EntInvalDropsOneRow : Prop :=
  ∀ (s : State) (k : Sym), s.eng.job = .idle →
    ∃ t, exec (.entInval k) s = .next t ∧ t = { s with lut := t.lut, tableCount := t.tableCount } ∧
      t.entry k = { valid := false, len := 0, code := 0 } ∧ (∀ j, j ≠ k → t.entry j = s.entry j) ∧
      t.tableCount = if (s.entry k).valid = true then s.tableCount - 1 else s.tableCount

/-- R116, R98, R203, R205: TBL_CHECK with no job running passes with DONE on an injective table and fails with INJECTIVITY
and the first duplicate pair in ERR_INFO on any other; it starts no job, clears the counters and sets JOB to 3. That it
clears STATUS.DEGEN is R98's word, where R28 and R42 read otherwise (log 5). -/
def Obligations.TblCheckReportsInjectivity : Prop :=
  ∀ s, s.eng.job = .idle →
    (s.lut.Injective → exec .tblCheck s = .next { s with
      done := true, err := false, errCode := .noError, jobKind := .check, statusDegen := false
      errInfo := 0, inCount := 0, outCount := 0, skipCount := 0 }) ∧
    (¬ s.lut.Injective → ∃ i j, s.findDup = some (i, j) ∧ exec .tblCheck s = .next { s with
      done := false, err := true, errCode := .injectivity, jobKind := .check, statusDegen := false
      errInfo := (j.setWidth 32 <<< 8) ||| i.setWidth 32, inCount := 0, outCount := 0, skipCount := 0 })

/-- R130, R98, R203: ENC_START with no job running starts an encode job of IN_LEN bytes; with an empty table or IN_LEN 0 it
fails with EMPTY_INPUT, both conditions reported in ERR_INFO, and no job starts. That it clears STATUS.DEGEN is R98's
word, where R28 and R42 read otherwise (log 5). -/
def Obligations.EncStartStartsOrReportsEmptyInput : Prop :=
  ∀ s, s.eng.job = .idle →
    (s.tableCount ≠ 0 → s.inLen ≠ 0 → exec .encStart s = .next { s with
      done := false, err := false, errCode := .noError, jobKind := .encode, statusDegen := false
      errInfo := 0, inCount := 0, outCount := 0, skipCount := 0
      eng := { s.eng with job := .enc, remaining := s.inLen, encActive := false, encPos := 0 } }) ∧
    (s.tableCount = 0 ∨ s.inLen = 0 → exec .encStart s = .next { s with
      done := false, err := true, errCode := .emptyInput, jobKind := .encode, statusDegen := false
      errInfo := (if s.tableCount = 0 then 1 else 0) ||| (if s.inLen = 0 then 2 else 0)
      inCount := 0, outCount := 0, skipCount := 0 })

/-- R150, R152, R165, R98, R203: DEC_START in a state of a run with no job running starts a decode job of IN_LEN bytes on an
injective table, in degenerate mode exactly when the LUT holds one valid row and its len is 0; with a duplicate code it
fails with INJECTIVITY and no job starts. Inv is the model's invariant StepKeepsInvariants speaks of. -/
def Obligations.DecStartStartsOrReportsADuplicate : Prop :=
  ∀ s, s.Inv → s.eng.job = .idle →
    (s.lut.Injective → ∀ k, s.lut.DegenerateAt k → exec .decStart s = .next { s with
      done := false, err := false, errCode := .noError, jobKind := .decode, statusDegen := true
      errInfo := 0, inCount := 0, outCount := 0, skipCount := 0
      eng := { s.eng with
        job := .dec, remaining := s.inLen, decIntok := false, decDead := false, decLen := 0, decAcc := 0
        degen := true, degSym := k } }) ∧
    (s.lut.Injective → (∀ k, ¬ s.lut.DegenerateAt k) → exec .decStart s = .next { s with
      done := false, err := false, errCode := .noError, jobKind := .decode, statusDegen := false
      errInfo := 0, inCount := 0, outCount := 0, skipCount := 0
      eng := { s.eng with
        job := .dec, remaining := s.inLen, decIntok := false, decDead := false, decLen := 0, decAcc := 0
        degen := false } }) ∧
    (¬ s.lut.Injective → ∃ i j, s.findDup = some (i, j) ∧ exec .decStart s = .next { s with
      done := false, err := true, errCode := .injectivity, jobKind := .decode, statusDegen := false
      errInfo := (j.setWidth 32 <<< 8) ||| i.setWidth 32, inCount := 0, outCount := 0, skipCount := 0 })

/-- R115: `find_dup()` gives a pair of valid rows with the same len and code, the first in lexicographic order of (i, j)
with i < j, and none exactly when no two rows share a code. -/
def Obligations.FindDupIsTheFirstPair : Prop :=
  ∀ s : State,
    (s.findDup = none ↔ s.lut.Injective) ∧
    (∀ i j, s.findDup = some (i, j) →
      i < j ∧ (s.entry i).valid = true ∧ (s.entry j).valid = true ∧
      (s.entry i).len = (s.entry j).len ∧ (s.entry i).code = (s.entry j).code ∧
      ∀ i' j', i' < j' → (s.entry i').valid = true → (s.entry j').valid = true →
        (s.entry i').len = (s.entry j').len → (s.entry i').code = (s.entry j').code →
        i < i' ∨ (i = i' ∧ j ≤ j'))

/-! ## The engine steps -/

/-- R132, R203: ENC_CONSUME takes the offered byte and counts it; a byte of 0x80 or more ends the job with INPUT_RANGE, a
symbol without a row with MISSING_CODE, each with the byte in ERR_INFO; otherwise the symbol's code is opened. -/
def Obligations.EncConsumeLooksUpTheByte : Prop :=
  ∀ (s : State) (b : Byte), engineGuard .encConsume s = true → s.inSlot = some b →
    (0x80 ≤ b.toNat → engineTurn s = { s with
      inSlot := none, inCount := s.inCount + 1, eng := Engine.cleared, outSlot := none
      err := true, errCode := .inputRange, errInfo := b.setWidth 32 }) ∧
    (b.toNat < 0x80 → (s.entry (b.setWidth 7)).valid = false → engineTurn s = { s with
      inSlot := none, inCount := s.inCount + 1, eng := Engine.cleared, outSlot := none
      err := true, errCode := .missingCode, errInfo := b.setWidth 32 }) ∧
    (b.toNat < 0x80 → (s.entry (b.setWidth 7)).valid = true → engineTurn s = { s with
      inSlot := none, inCount := s.inCount + 1
      eng := { s.eng with
        remaining := s.eng.remaining - 1, encSym := b.setWidth 7, encPos := 0, encActive := true } })

/-- R134, R13: ENC_EMIT_CHAR emits character enc_pos of the row's code string and moves on by one; nothing else changes. -/
def Obligations.EncEmitCharEmitsTheNextCharacter : Prop :=
  ∀ s : State, engineGuard .encEmitChar s = true →
    ∃ c, (s.entry s.eng.encSym).chars[s.eng.encPos.toNat]? = some c ∧
      engineTurn s = { s with outSlot := some c, eng := { s.eng with encPos := s.eng.encPos + 1 } }

/-- R135, R136, R104: after the last character ENC_EMIT_DELIM emits one space and closes the symbol; with no input left
and the space taken, ENC_FINISH ends the job with DONE. -/
def Obligations.EncDelimiterAndFinish : Prop :=
  ∀ s : State,
    (engineGuard .encEmitDelim s = true → engineTurn s = { s with
      outSlot := some 0x20, eng := { s.eng with encActive := false, encPos := 0 } }) ∧
    (engineGuard .encFinish s = true → engineTurn s = { s with eng := Engine.cleared, done := true })

/-- R155, R151, R154, R164: DEC_CONSUME of a token byte opens a token or extends the open one; a byte other than '0' and '1',
or a 128th character, makes it dead; nothing is emitted. -/
def Obligations.DecConsumeExtendsTheToken : Prop :=
  ∀ (s : State) (b : Byte), engineGuard .decConsume s = true → s.inSlot = some b →
    b.toNat ∉ [0x09, 0x0A, 0x0B, 0x0C, 0x0D, 0x20] →
    ∃ e : Engine, engineTurn s = { s with inSlot := none, inCount := s.inCount + 1, eng := e } ∧
      e = { s.eng with
        remaining := s.eng.remaining - 1, decIntok := true
        decDead := e.decDead, decLen := e.decLen, decAcc := e.decAcc } ∧
      (s.eng.decIntok = false → (b = 0x30 ∨ b = 0x31) →
        e.decDead = false ∧ e.decLen = 1 ∧ e.decAcc.toNat = b.toNat - 0x30) ∧
      (s.eng.decIntok = false → ¬(b = 0x30 ∨ b = 0x31) → e.decDead = true) ∧
      (s.eng.decIntok = true → s.eng.decDead = true → e.decDead = true) ∧
      (s.eng.decIntok = true → s.eng.decDead = false → (b = 0x30 ∨ b = 0x31) → s.eng.decLen ≠ 127 →
        e.decDead = false ∧ e.decLen = s.eng.decLen + 1 ∧
        (s.eng.decAcc.toNat < 2 ^ s.eng.decLen.toNat →
          e.decAcc.toNat = 2 * s.eng.decAcc.toNat + (b.toNat - 0x30))) ∧
      (s.eng.decIntok = true → s.eng.decDead = false → (¬(b = 0x30 ∨ b = 0x31) ∨ s.eng.decLen = 127) →
        e.decDead = true)

/-- R155, R154, R152, R161: DEC_CONSUME of a whitespace byte in a state of a run ends an open token, emitting its symbol or
counting it as skipped; in degenerate mode no token matches and a space emits the sole symbol. Inv is the model's invariant. -/
def Obligations.DecConsumeEndsTheToken : Prop :=
  ∀ (s : State) (b : Byte), s.Inv → engineGuard .decConsume s = true → s.inSlot = some b →
    b.toNat ∈ [0x09, 0x0A, 0x0B, 0x0C, 0x0D, 0x20] →
    ∃ (o : Option Byte) (n : Word), engineTurn s = { s with
        inSlot := none, inCount := s.inCount + 1, outSlot := o, skipCount := n
        eng := { s.eng with remaining := s.eng.remaining - 1, decIntok := false
                            decDead := if s.eng.decIntok = true then false else s.eng.decDead
                            decLen := if s.eng.decIntok = true then 0 else s.eng.decLen
                            decAcc := if s.eng.decIntok = true then 0 else s.eng.decAcc } } ∧
      (s.eng.degen = true →
        o = (if b = 0x20 then some (s.eng.degSym.setWidth 8) else none) ∧
        n = (if s.eng.decIntok = true then s.skipCount + 1 else s.skipCount)) ∧
      (s.eng.degen = false → s.eng.decIntok = false → o = none ∧ n = s.skipCount) ∧
      (s.eng.degen = false → s.eng.decIntok = true → s.eng.decDead = true → o = none ∧ n = s.skipCount + 1) ∧
      (s.eng.degen = false → s.eng.decIntok = true → s.eng.decDead = false →
        (∀ k, s.matchCode s.eng.decLen s.eng.decAcc = some k → o = some (k.setWidth 8) ∧ n = s.skipCount) ∧
        (s.matchCode s.eng.decLen s.eng.decAcc = none → o = none ∧ n = s.skipCount + 1))

/-- R157, R158, R159, R104: with no input left an open token is ended by DEC_FLUSH, emitted or skipped and counted, and with
none open and OUT.slot empty DEC_FINISH ends the job with DONE. -/
def Obligations.DecFlushAndFinish : Prop :=
  ∀ s : State,
    (engineGuard .decFlush s = true → ∃ (o : Option Byte) (n : Word), engineTurn s = { s with
        outSlot := o, skipCount := n
        eng := { s.eng with decIntok := false, decDead := false, decLen := 0, decAcc := 0 } } ∧
      (s.eng.decDead = true → o = none ∧ n = s.skipCount + 1) ∧
      (s.eng.decDead = false →
        (∀ k, s.matchCode s.eng.decLen s.eng.decAcc = some k → o = some (k.setWidth 8) ∧ n = s.skipCount) ∧
        (s.matchCode s.eng.decLen s.eng.decAcc = none → o = none ∧ n = s.skipCount + 1))) ∧
    (engineGuard .decFinish s = true → engineTurn s = { s with eng := Engine.cleared, done := true })

/-- R160: while a decode job runs, match(L, v) is the symbol of the one valid row with exactly that length and value. -/
def Obligations.MatchIsExact : Prop :=
  ∀ s : State, s.Inv → s.eng.job = .dec → ∀ (len : CodeLen) (v : Code) (k : Sym),
    s.matchCode len v = some k ↔ (s.entry k).valid = true ∧ (s.entry k).len = len ∧ (s.entry k).code = v

/-! ## What every step keeps -/

/-- R46, R47: the state after reset satisfies the invariants. -/
def Obligations.ResetSatisfiesInvariants : Prop :=
  State.reset.Inv

/-- R47 (a) to (h), with what else the rules keep (State.Inv): every step keeps it, from every state that has it. -/
def Obligations.StepKeepsInvariants : Prop :=
  ∀ s t : State, s.Inv → step s = .next t → t.Inv

/-- R47 (i), R60: a step that leaves a job running, or one that ends it other than by Reset, does not change the LUT. -/
def Obligations.LutIsFixedWhileAJobRuns : Prop :=
  ∀ s t : State, step s = .next t → s.eng.job ≠ .idle → (∀ ts, s.host.turns ≠ .reset :: ts) → t.lut = s.lut

/-- R112: TABLE_COUNT is changed only by ENT_WRITE of an invalid row, ENT_INVAL of a valid one, TBL_CLEAR and reset, and in
a run it stays in 0..128 and equals the number of valid rows. -/
def Obligations.TableCountChangesOnlyByTableCommands : Prop :=
  ∀ s t : State, step s = .next t →
    (t.tableCount ≠ s.tableCount →
      (∃ k, CommandIsNext (.entWrite k) s ∧ (s.entry k).valid = false ∧ t.tableCount = s.tableCount + 1) ∨
      (∃ k, CommandIsNext (.entInval k) s ∧ (s.entry k).valid = true ∧ t.tableCount = s.tableCount - 1) ∨
      (CommandIsNext .tblClear s ∧ t.tableCount = 0) ∨ (ResetIsNext s ∧ t.tableCount = 0)) ∧
    (s.Inv → t.tableCount.toNat ≤ 128 ∧ t.tableCount.toNat = (validSyms t.lut).length)

/-- R38, R60, R93: the LUT changes only through ENT_WRITE, ENT_INVAL, TBL_CLEAR and reset, the commands with no job
running. -/
def Obligations.LutChangesOnlyByTableCommands : Prop :=
  ∀ s t : State, step s = .next t → t.lut ≠ s.lut →
    ResetIsNext s ∨
    (s.eng.job = .idle ∧
      ((∃ k, CommandIsNext (.entWrite k) s) ∨ (∃ k, CommandIsNext (.entInval k) s) ∨ CommandIsNext .tblClear s))

/-- R44, R28, R206, R208: what changes the four flags, each direction. BUSY rises only by an accepted ENC_START or DEC_START,
and falls only by the step ENC_FINISH or DEC_FINISH, ENC_CONSUME with an error, ABORT or Reset. DONE rises only by
ENC_FINISH, DEC_FINISH or an accepted TBL_CHECK, ERR only by ENC_CONSUME, ABORT or an accepted start command; both fall only
by an accepted start command, a W1C write or Reset. CMD_ERR rises only by a rejected command, and falls only by a W1C write
or Reset. Each is the step taken, whose turn it was being the model's (log 1). -/
def Obligations.FlagsChangeOnlyAsListed : Prop :=
  ∀ s t : State, step s = .next t →
    (s.busy = false → t.busy = true → s.eng.job = .idle ∧ (CommandIsNext .encStart s ∨ CommandIsNext .decStart s)) ∧
    (s.busy = true → t.busy = false →
      EngineTakes .encFinish s t ∨ EngineTakes .decFinish s t ∨ (EngineTakes .encConsume s t ∧ t.err = true) ∨
        CommandIsNext .abort s ∨ ResetIsNext s) ∧
    (s.done = false → t.done = true →
      EngineTakes .encFinish s t ∨ EngineTakes .decFinish s t ∨ (s.eng.job = .idle ∧ CommandIsNext .tblCheck s)) ∧
    (s.done = true → t.done = false → JobStartIsNext s ∨ W1CIsNext 1 s ∨ ResetIsNext s) ∧
    (s.err = false → t.err = true →
      EngineTakes .encConsume s t ∨ (s.eng.job ≠ .idle ∧ CommandIsNext .abort s) ∨ JobStartIsNext s) ∧
    (s.err = true → t.err = false → JobStartIsNext s ∨ W1CIsNext 2 s ∨ ResetIsNext s) ∧
    (s.cmdErr = false → t.cmdErr = true → RejectIsNext s) ∧
    (s.cmdErr = true → t.cmdErr = false → W1CIsNext 3 s ∨ ResetIsNext s)

/-- R32: ENT_LEN.VALID is written only by ENT_READ (and by reset, R46). -/
def Obligations.EntLenValidIsWrittenOnlyByEntRead : Prop :=
  ∀ s t : State, step s = .next t → t.entValid ≠ s.entValid → ResetIsNext s ∨ ∃ k, CommandIsNext (.entRead k) s

/-- R202, R161: from a state of a run, no step of a decode job raises an error unless ABORT is the next command. -/
def Obligations.DecodeJobsRaiseNoError : Prop :=
  ∀ s t : State, s.Inv → step s = .next t → s.eng.job = .dec → ¬ CommandIsNext .abort s → t.err = false

/-- R205: a start-time error is EMPTY_INPUT at ENC_START and INJECTIVITY at DEC_START and TBL_CHECK, in the command's own
step; it leaves no job running: BUSY is never 1 for it, JOB names it, the three counters are 0, and no byte is consumed or
emitted. -/
def Obligations.StartTimeErrorsStartNoJob : Prop :=
  ∀ (s t : State) (i : Instr), i = .encStart ∨ i = .decStart ∨ i = .tblCheck → s.eng.job = .idle →
    exec i s = .next t → t.err = true →
    t.errCode = (match i with | .encStart => .emptyInput | _ => .injectivity) ∧
    t.eng = s.eng ∧ t.busy = false ∧
    t.jobKind = (match i with | .encStart => .encode | .decStart => .decode | _ => .check) ∧
    t.inCount = 0 ∧ t.outCount = 0 ∧ t.skipCount = 0 ∧ t.inSlot = s.inSlot ∧ t.outSlot = s.outSlot

/-- R43, R209, R210: irq is the OR of each pending flag with its enable bit of CTRL, also at once after a write of CTRL, and
it is 0 after reset. -/
def Obligations.IrqIsEnabledPendingFlags : Prop :=
  State.reset.irq = false ∧
  (∀ s : State, s.irq = true ↔
    (s.done = true ∧ s.ctrl.getLsbD 0 = true) ∨ (s.err = true ∧ s.ctrl.getLsbD 1 = true) ∨
    (s.cmdErr = true ∧ s.ctrl.getLsbD 2 = true)) ∧
  (∀ (s t : State) (off : BitVec 6) (w : Word) (ts : List Turn),
    s.resetSeen = true → s.host.turns = .regWrite off w :: ts → off.extractLsb' 2 4 = 2 → step s = .next t →
    (t.irq = true ↔
      (s.done = true ∧ w.getLsbD 0 = true) ∨ (s.err = true ∧ w.getLsbD 1 = true) ∨
      (s.cmdErr = true ∧ w.getLsbD 2 = true)))

/-! ## Whole jobs, over every interleaving of the agents -/

/-- R30, R39, R236: in a running job IN_COUNT is the number of bytes consumed, and with E.remaining it makes the length
copied at the job's start, which it never exceeds. -/
def Obligations.InCountAndRemainingMakeTheJobLength : Prop :=
  ∀ (kind : Job) (s t : State) (bs : List Byte), s.Inv → kind ≠ .idle → JustStarted kind s → JobRun kind s bs t →
    t.inCount.toNat = bs.length ∧ t.inCount.toNat + t.eng.remaining.toNat = s.eng.remaining.toNat

/-- R137, R57, R131: an encode job that ends with DONE, however the host and the engine interleaved, consumed IN_LEN bytes,
all symbols with a row, and delivered exactly Enc(LUT, t), counted in OUT_COUNT. -/
def Obligations.EncodeJobDeliversItsTokenStream : Prop :=
  ∀ (s u : State) (bs : List Byte), s.Inv → JustStarted .enc s → JobEnds .enc s bs u → u.done = true →
    u.host.taken = s.host.taken ++ encStream s.lut bs ∧
    (∀ b ∈ bs, encodable s.lut b = true) ∧
    bs.length = s.eng.remaining.toNat ∧ u.inCount = s.eng.remaining ∧
    u.outCount.toNat = (encStream s.lut bs).length % 2 ^ 32 ∧ u.skipCount = 0

/-- R138, R204: an encode job that ends with an error other than ABORTED failed at its last consumed byte, the first that is
no symbol with a row; ERR_INFO is that byte, IN_COUNT its position, what the host received is Enc of the bytes before it, or that
stream without its last space, and OUT_COUNT is the length of what it received. -/
def Obligations.FailedEncodeJobStopsAtTheFirstBadByte : Prop :=
  ∀ (s u : State) (bs : List Byte), s.Inv → JustStarted .enc s → JobEnds .enc s bs u →
    u.err = true → u.errCode ≠ .aborted →
    ∃ good bad, bs = good ++ [bad] ∧ (∀ b ∈ good, encodable s.lut b = true) ∧ encodable s.lut bad = false ∧
      u.errCode = (if 0x80 ≤ bad.toNat then .inputRange else .missingCode) ∧
      u.errInfo = bad.setWidth 32 ∧ u.inCount.toNat = bs.length ∧
      ∃ out, u.host.taken = s.host.taken ++ out ∧ u.outCount.toNat = out.length % 2 ^ 32 ∧
        (out = encStream s.lut good ∨ (good ≠ [] ∧ out ++ [0x20] = encStream s.lut good))

/-- R137, R239: an encode job of bytes that all have rows can finish, whether or not a byte waits in IN.slot at its start
(R236): for some moves (log 1) it consumes exactly its input and ends itself with DONE and Enc(LUT, t) delivered. -/
def Obligations.EncodeJobCanFinish : Prop :=
  ∀ (s : State) (bs : List Byte), s.Inv → s.resetSeen = true → JustStarted .enc s →
    (s.inSlot = none ∨ bs = [] ∨ s.inSlot = bs.head?) →
    bs.length = s.eng.remaining.toNat → (∀ b ∈ bs, encodable s.lut b = true) →
    ∃ ts u, JobEnds .enc (s.setTurns ts) bs u ∧ u.done = true ∧
      u.host.taken = s.host.taken ++ encStream s.lut bs

/-- R163, R152, R153, R157, R161, R165: a decode job that ends with DONE, however the agents interleaved, consumed IN_LEN
bytes and delivered exactly the symbols of their matching tokens (in degenerate mode the sole symbol once for each space),
and counted the other tokens in SKIP_COUNT. -/
def Obligations.DecodeJobDeliversTheMatchedSymbols : Prop :=
  ∀ (s u : State) (bs : List Byte), s.Inv → JustStarted .dec s → JobEnds .dec s bs u → u.done = true →
    u.host.taken = s.host.taken ++ decStream s.lut bs ∧
    bs.length = s.eng.remaining.toNat ∧ u.inCount = s.eng.remaining ∧
    u.outCount.toNat = (decStream s.lut bs).length % 2 ^ 32 ∧
    u.skipCount.toNat = decSkips s.lut bs % 2 ^ 32

/-- R163, R239: a decode job can finish on any input, whether or not a byte waits in IN.slot at its start (R236): for some
moves (log 1) it consumes exactly its input and ends itself with DONE and Dec(LUT, u) delivered. -/
def Obligations.DecodeJobCanFinish : Prop :=
  ∀ (s : State) (bs : List Byte), s.Inv → s.resetSeen = true → JustStarted .dec s →
    (s.inSlot = none ∨ bs = [] ∨ s.inSlot = bs.head?) → bs.length = s.eng.remaining.toNat →
    ∃ ts u, JobEnds .dec (s.setTurns ts) bs u ∧ u.done = true ∧
      u.host.taken = s.host.taken ++ decStream s.lut bs

/-- R166: the round trip through the block. An encode job that ends with DONE, then a decode job with the same LUT on
exactly the bytes the first delivered: if every valid row has len 1 or more, or the LUT is degenerate, the second delivers
the first one's input and skips nothing. -/
def Obligations.EncodeThenDecodeRoundTrips : Prop :=
  ∀ (s1 u1 s2 u2 : State) (plain coded : List Byte),
    s1.Inv → JustStarted .enc s1 → JobEnds .enc s1 plain u1 → u1.done = true →
    s2.Inv → JustStarted .dec s2 → JobEnds .dec s2 coded u2 → u2.done = true →
    s2.lut = s1.lut → u1.host.taken = s1.host.taken ++ coded →
    ((∀ k, (s1.entry k).valid = true → 1 ≤ (s1.entry k).len.toNat) ∨ ∃ k, s1.lut.DegenerateAt k) →
    u2.host.taken = s2.host.taken ++ plain ∧ u2.skipCount = 0

/-- R139: on a degenerate table encoding n bytes of its symbol gives n spaces; in any table a row of len 0 gives one space. -/
def Obligations.DegenerateEncodingIsSpaces : Prop :=
  (∀ (lut : Lut) (k : Sym) (n : Nat), lut.DegenerateAt k →
    encStream lut (List.replicate n (k.setWidth 8)) = List.replicate n 0x20) ∧
  (∀ (lut : Lut) (k : Sym), (lutAt lut k).len = 0 → encStream lut [k.setWidth 8] = [0x20])

/-- R164, R160: a token with a byte other than '0' and '1', or of more than 127 bytes, matches no row of any LUT. -/
def Obligations.DeadTokensMatchNothing : Prop :=
  ∀ (lut : Lut) (tok : List Byte), (∃ b ∈ tok, b ≠ 0x30 ∧ b ≠ 0x31) ∨ 127 < tok.length → tokenSym lut tok = none

/-! ## The host reference procedure -/

open Sys2Proof.Reference

/-- R180, R193 (4): the frequency counter, whatever HOST_COUNT_WIDTH, fails exactly on a character above 127; no count passes
the width; where the width holds every count of the text, each is the count and they add up to the text's length (a count
it cannot hold is a free value, log 10). -/
def Obligations.FrequencyCounterCountsTheText : Prop :=
  ∀ (width : Option Nat) (text : List Nat),
    ((∃ c ∈ text, 128 ≤ c) → frequencies width text = .error .inputRange) ∧
    ((∀ c ∈ text, c < 128) → ∃ f, frequencies width text = .ok f ∧
      (∀ w, width = some w → ∀ k : Sym, f[k.toNat]'k.isLt < 2 ^ w) ∧
      (CountsFit width text → f.toList.sum = text.length ∧ ∀ k : Sym, f[k.toNat]'k.isLt = text.count k.toNat))

/-- R181, R183, R193 (5): insert and removeTop keep the heap's order and its elements, and removeTop gives a lightest
element; on an empty queue it fails. -/
def Obligations.HeapOperationsKeepOrder : Prop :=
  (∀ h t, HeapOrdered h → HeapOrdered (heapInsert h t) ∧ (heapInsert h t).Perm (t :: h)) ∧
  (∀ h top rest, HeapOrdered h → heapRemoveTop h = .ok (top, rest) →
    HeapOrdered rest ∧ h.Perm (top :: rest) ∧ ∀ t ∈ rest, top.weight ≤ t.weight) ∧
  (∀ h, heapRemoveTop h = .error .queueUnderflow ↔ h = [])

/-- R185, R182, R193 (7): under the reference choices the builder succeeds on every FrequencyTable with a non-zero count, with
one of the outcomes some tie-break gives, and the empty text fails with EmptyInputError, whatever HOST_COUNT_WIDTH. -/
def Obligations.ReferenceBuilderIsOneOutcome : Prop :=
  (∀ f : Freq, (∃ k : Sym, 0 < f[k.toNat]'k.isLt) → ∃ t, buildTree f = .ok t ∧ Builds (leaves f) t) ∧
  ∀ width, symbolTable width [] = .error .emptyInput

/-- R184, R187, R188, R193 (2) (3) (8): whatever the tie-break and the child order, the tree conserves weights, its root weighs
what the counts sum to, the table's keys are the symbols with non-zero frequency, each once, every code has at most 127
characters, and with two or more keys no code is a prefix of another. -/
def Obligations.EveryBuiltTableIsPrefixFree : Prop :=
  ∀ (f : Freq) (t : Tree), Builds (leaves f) t →
    t.Conserves ∧ t.weight = f.toList.sum ∧
    (∀ k : Sym, (∃ c, (k, c) ∈ codes t []) ↔ 0 < f[k.toNat]'k.isLt) ∧
    ((codes t []).map Prod.fst).Nodup ∧
    (∀ p ∈ codes t [], p.2.length ≤ 127) ∧
    (∀ p ∈ codes t [], ∀ q ∈ codes t [], p.2 <+: q.2 → p = q)

/-- R193 (1) (2) (3) (4) (6) (8), R188: whatever HOST_COUNT_WIDTH, the tie-break and the child order, a table built from a
non-empty text has the properties `R193`, and is loaded by the moves of R188 (log 1, log 13), with no job running, as one
row for each key; the LUT is then injective, encodes every character of the text where the width holds its counts (log
10), and where it does, decoding the encoded text gives the text and skips nothing. The text of n times one symbol gives
that symbol the empty code, and n spaces decode to it. -/
def Obligations.BuiltTablesRoundTrip : Prop :=
  ∀ (width : Option Nat) (text : List Nat) (f : Freq) (t : Tree), frequencies width text = .ok f → Builds (leaves f) t →
    (∀ s : State, s.resetSeen = true → s.eng.job = .idle →
      ∃ u, core.run (loadTable (codes t [])).length (s.setTurns (loadTable (codes t []))) = .next u ∧
        u.lut = lutOf (codes t []) ∧ u.tableCount.toNat = (codes t []).length) ∧
    R193 width text f t ∧
    (CountsFit width text → ∀ b ∈ textBytes text, encodable (lutOf (codes t [])) b = true) ∧
    ((∀ b ∈ textBytes text, encodable (lutOf (codes t [])) b = true) →
      decStream (lutOf (codes t [])) (encStream (lutOf (codes t [])) (textBytes text)) = textBytes text ∧
      decSkips (lutOf (codes t [])) (encStream (lutOf (codes t [])) (textBytes text)) = 0)

/-- R79, R111, R188: the six moves of LOADCODE (none left out: log 13), with no job running, write the row of that code
string, whose characters are the string where it has at most 127 (a longer one: log 13); the moves of R188, TBL_CLEAR and
every LOADCODE, leave the LUT of the whole table and TABLE_COUNT the number of its keys. Else only the staging registers
change. The moves are the model's way to run the host's program (log 1); their order, and that the later of two entries of
a symbol wins, are its choice (log 13). -/
def Obligations.LoadCodeWritesTheRow : Prop :=
  (∀ (s : State) (k : Sym) (c : List Bool), s.resetSeen = true → s.eng.job = .idle →
    ∃ u, core.run 6 (s.setTurns (loadCode k c)) = .next u ∧ u.host.turns = [] ∧
      u.entry k = rowOf c ∧ (c.length ≤ 127 → (u.entry k).valid = true ∧ (u.entry k).bits = c) ∧
      ∀ j, j ≠ k → u.entry j = s.entry j) ∧
  (∀ (s : State) (table : SymbolTable), s.resetSeen = true → s.eng.job = .idle →
    ∃ u, core.run (loadTable table).length (s.setTurns (loadTable table)) = .next u ∧
      u = { s.setTurns [] with
        lut := u.lut, tableCount := u.tableCount, entLen := u.entLen, entCode0 := u.entCode0
        entCode1 := u.entCode1, entCode2 := u.entCode2, entCode3 := u.entCode3 } ∧
      u.lut = lutOf table ∧ u.tableCount.toNat = (table.map Prod.fst).dedup.length)

/-! ## Fair runs, and the host's two transforms -/

/-- R239, R241: a running job in a state of a run waits only for input with IN.slot empty, or for OUT.slot to be taken; and in
a run without end in which the host keeps R239's duty and the engine is weakly fair, the job does not run for ever. Inv is
the model's invariant; that host and platform may choose every move is log 1. -/
def Obligations.FairRunsEndTheJob : Prop :=
  (∀ s : State, s.Inv → s.busy = true → (∀ e, engineGuard e s = false) →
    (0 < s.eng.remaining.toNat ∧ s.inSlot = none) ∨ s.outSlot ≠ none) ∧
  (∀ σ : Nat → State, (σ 0).Inv → Run σ → FairHost σ → FairEngine σ → ∃ n, (σ n).busy = false)

/-- R189, R190, R191, R193, R237, R238: for every host parameter (log 10), with the block in a state of a run and however the
agents interleave: a compression of a text gives the table section of a table built from it, the separator and the token
stream of the whole text, or the error of R191 that applies; where the serialized form is self-describing, a decompression
of that file gives the text. R161, R163: a decode of any table and stream gives the decoder's output on the LUT the table
loads, or InjectivityError exactly where that LUT has a duplicate code. On a table with a code string of more than 127
characters this rests on the model's choice of the row such a string loads, which may equal another's (log 13), and on
one that names a symbol twice, on its choice that the later entry wins (log 13). That
skipped tokens fail with `tokensSkipped` where the host's policy says so, and a job the host itself aborts with `aborted`,
is the model's choice too (log 13). -/
def Obligations.CompressedTextDecompressesToItself : Prop :=
  (∀ (P : HostParams) (text : List Nat) (s : State) (file : List Byte), s.Inv → Compresses P text s (.ok file) →
    ∃ table, TableOf P.countWidth text table ∧ (∀ b ∈ textBytes text, encodable (lutOf table) b = true) ∧
      file = fileOf P table (encStream (lutOf table) (textBytes text))) ∧
  (∀ (P : HostParams) (text : List Nat) (s : State) (e : HostError), s.Inv → Compresses P text s (.error e) →
    (e = .inputRange ∧ ∃ c ∈ text, 128 ≤ c) ∨ (e = .emptyInput ∧ (text = [] ∨ ¬ CountsFit P.countWidth text)) ∨
      (e = .missingCode ∧ ¬ CountsFit P.countWidth text) ∨ e = .aborted) ∧
  (∀ (P : HostParams) (text : List Nat) (s s' : State) (file : List Byte) (r : Except HostError (List Byte)),
    SelfDescribing P → s.Inv → s'.Inv → Compresses P text s (.ok file) → Decompresses P file s' r →
    r = .ok (textBytes text) ∨ r = .error .aborted) ∧
  (∀ (P : HostParams) (table : SymbolTable) (coded : List Byte) (s : State) (r : Except HostError (List Byte)),
    s.Inv → Restores P table coded s r →
    (¬ (lutOf table).Injective → r = .error .injectivity) ∧
    (∀ out, r = .ok out → out = decStream (lutOf table) coded ∧
      (P.skipsFail = true → decSkips (lutOf table) coded = 0)) ∧
    (∀ e, r = .error e → e = .aborted ∨ (e = .injectivity ∧ ¬ (lutOf table).Injective) ∨
      (e = .tokensSkipped ∧ P.skipsFail = true ∧ decSkips (lutOf table) coded ≠ 0)))
end

