-- ==== Sys2Proof/Laws/State.lean ====
section
/-! SUPPORT. Each shared update of State, field by field, so that no proof unfolds a record update. -/

namespace Sys2Proof.Laws

open Sys2Proof.Machine

/-! `takeIn` -/

@[simp] theorem takeIn_resetSeen (s : State) : s.takeIn.resetSeen = s.resetSeen := rfl
@[simp] theorem takeIn_ctrl (s : State) : s.takeIn.ctrl = s.ctrl := rfl
@[simp] theorem takeIn_done (s : State) : s.takeIn.done = s.done := rfl
@[simp] theorem takeIn_err (s : State) : s.takeIn.err = s.err := rfl
@[simp] theorem takeIn_cmdErr (s : State) : s.takeIn.cmdErr = s.cmdErr := rfl
@[simp] theorem takeIn_errCode (s : State) : s.takeIn.errCode = s.errCode := rfl
@[simp] theorem takeIn_jobKind (s : State) : s.takeIn.jobKind = s.jobKind := rfl
@[simp] theorem takeIn_statusDegen (s : State) : s.takeIn.statusDegen = s.statusDegen := rfl
@[simp] theorem takeIn_cmdCause (s : State) : s.takeIn.cmdCause = s.cmdCause := rfl
@[simp] theorem takeIn_inLen (s : State) : s.takeIn.inLen = s.inLen := rfl
@[simp] theorem takeIn_inCount (s : State) : s.takeIn.inCount = s.inCount := rfl
@[simp] theorem takeIn_outCount (s : State) : s.takeIn.outCount = s.outCount := rfl
@[simp] theorem takeIn_entValid (s : State) : s.takeIn.entValid = s.entValid := rfl
@[simp] theorem takeIn_entLen (s : State) : s.takeIn.entLen = s.entLen := rfl
@[simp] theorem takeIn_entCode0 (s : State) : s.takeIn.entCode0 = s.entCode0 := rfl
@[simp] theorem takeIn_entCode1 (s : State) : s.takeIn.entCode1 = s.entCode1 := rfl
@[simp] theorem takeIn_entCode2 (s : State) : s.takeIn.entCode2 = s.entCode2 := rfl
@[simp] theorem takeIn_entCode3 (s : State) : s.takeIn.entCode3 = s.entCode3 := rfl
@[simp] theorem takeIn_tableCount (s : State) : s.takeIn.tableCount = s.tableCount := rfl
@[simp] theorem takeIn_errInfo (s : State) : s.takeIn.errInfo = s.errInfo := rfl
@[simp] theorem takeIn_skipCount (s : State) : s.takeIn.skipCount = s.skipCount := rfl
@[simp] theorem takeIn_lut (s : State) : s.takeIn.lut = s.lut := rfl
@[simp] theorem takeIn_inSlot (s : State) : s.takeIn.inSlot = none := rfl
@[simp] theorem takeIn_outSlot (s : State) : s.takeIn.outSlot = s.outSlot := rfl
@[simp] theorem takeIn_eng (s : State) : s.takeIn.eng = s.eng := rfl
@[simp] theorem takeIn_host (s : State) : s.takeIn.host = s.host := rfl

/-! `countByte` -/

@[simp] theorem countByte_resetSeen (s : State) : s.countByte.resetSeen = s.resetSeen := rfl
@[simp] theorem countByte_ctrl (s : State) : s.countByte.ctrl = s.ctrl := rfl
@[simp] theorem countByte_done (s : State) : s.countByte.done = s.done := rfl
@[simp] theorem countByte_err (s : State) : s.countByte.err = s.err := rfl
@[simp] theorem countByte_cmdErr (s : State) : s.countByte.cmdErr = s.cmdErr := rfl
@[simp] theorem countByte_errCode (s : State) : s.countByte.errCode = s.errCode := rfl
@[simp] theorem countByte_jobKind (s : State) : s.countByte.jobKind = s.jobKind := rfl
@[simp] theorem countByte_statusDegen (s : State) : s.countByte.statusDegen = s.statusDegen := rfl
@[simp] theorem countByte_cmdCause (s : State) : s.countByte.cmdCause = s.cmdCause := rfl
@[simp] theorem countByte_inLen (s : State) : s.countByte.inLen = s.inLen := rfl
@[simp] theorem countByte_inCount (s : State) : s.countByte.inCount = s.inCount + 1 := rfl
@[simp] theorem countByte_outCount (s : State) : s.countByte.outCount = s.outCount := rfl
@[simp] theorem countByte_entValid (s : State) : s.countByte.entValid = s.entValid := rfl
@[simp] theorem countByte_entLen (s : State) : s.countByte.entLen = s.entLen := rfl
@[simp] theorem countByte_entCode0 (s : State) : s.countByte.entCode0 = s.entCode0 := rfl
@[simp] theorem countByte_entCode1 (s : State) : s.countByte.entCode1 = s.entCode1 := rfl
@[simp] theorem countByte_entCode2 (s : State) : s.countByte.entCode2 = s.entCode2 := rfl
@[simp] theorem countByte_entCode3 (s : State) : s.countByte.entCode3 = s.entCode3 := rfl
@[simp] theorem countByte_tableCount (s : State) : s.countByte.tableCount = s.tableCount := rfl
@[simp] theorem countByte_errInfo (s : State) : s.countByte.errInfo = s.errInfo := rfl
@[simp] theorem countByte_skipCount (s : State) : s.countByte.skipCount = s.skipCount := rfl
@[simp] theorem countByte_lut (s : State) : s.countByte.lut = s.lut := rfl
@[simp] theorem countByte_inSlot (s : State) : s.countByte.inSlot = none := rfl
@[simp] theorem countByte_outSlot (s : State) : s.countByte.outSlot = s.outSlot := rfl
@[simp] theorem countByte_eng (s : State) : s.countByte.eng = { s.eng with remaining := s.eng.remaining - 1 } := rfl
@[simp] theorem countByte_host (s : State) : s.countByte.host = s.host := rfl

/-! `putOut` -/

@[simp] theorem putOut_resetSeen (s : State) (b : Byte) : (s.putOut b).resetSeen = s.resetSeen := rfl
@[simp] theorem putOut_ctrl (s : State) (b : Byte) : (s.putOut b).ctrl = s.ctrl := rfl
@[simp] theorem putOut_done (s : State) (b : Byte) : (s.putOut b).done = s.done := rfl
@[simp] theorem putOut_err (s : State) (b : Byte) : (s.putOut b).err = s.err := rfl
@[simp] theorem putOut_cmdErr (s : State) (b : Byte) : (s.putOut b).cmdErr = s.cmdErr := rfl
@[simp] theorem putOut_errCode (s : State) (b : Byte) : (s.putOut b).errCode = s.errCode := rfl
@[simp] theorem putOut_jobKind (s : State) (b : Byte) : (s.putOut b).jobKind = s.jobKind := rfl
@[simp] theorem putOut_statusDegen (s : State) (b : Byte) : (s.putOut b).statusDegen = s.statusDegen := rfl
@[simp] theorem putOut_cmdCause (s : State) (b : Byte) : (s.putOut b).cmdCause = s.cmdCause := rfl
@[simp] theorem putOut_inLen (s : State) (b : Byte) : (s.putOut b).inLen = s.inLen := rfl
@[simp] theorem putOut_inCount (s : State) (b : Byte) : (s.putOut b).inCount = s.inCount := rfl
@[simp] theorem putOut_outCount (s : State) (b : Byte) : (s.putOut b).outCount = s.outCount := rfl
@[simp] theorem putOut_entValid (s : State) (b : Byte) : (s.putOut b).entValid = s.entValid := rfl
@[simp] theorem putOut_entLen (s : State) (b : Byte) : (s.putOut b).entLen = s.entLen := rfl
@[simp] theorem putOut_entCode0 (s : State) (b : Byte) : (s.putOut b).entCode0 = s.entCode0 := rfl
@[simp] theorem putOut_entCode1 (s : State) (b : Byte) : (s.putOut b).entCode1 = s.entCode1 := rfl
@[simp] theorem putOut_entCode2 (s : State) (b : Byte) : (s.putOut b).entCode2 = s.entCode2 := rfl
@[simp] theorem putOut_entCode3 (s : State) (b : Byte) : (s.putOut b).entCode3 = s.entCode3 := rfl
@[simp] theorem putOut_tableCount (s : State) (b : Byte) : (s.putOut b).tableCount = s.tableCount := rfl
@[simp] theorem putOut_errInfo (s : State) (b : Byte) : (s.putOut b).errInfo = s.errInfo := rfl
@[simp] theorem putOut_skipCount (s : State) (b : Byte) : (s.putOut b).skipCount = s.skipCount := rfl
@[simp] theorem putOut_lut (s : State) (b : Byte) : (s.putOut b).lut = s.lut := rfl
@[simp] theorem putOut_inSlot (s : State) (b : Byte) : (s.putOut b).inSlot = s.inSlot := rfl
@[simp] theorem putOut_outSlot (s : State) (b : Byte) : (s.putOut b).outSlot = some b := rfl
@[simp] theorem putOut_eng (s : State) (b : Byte) : (s.putOut b).eng = s.eng := rfl
@[simp] theorem putOut_host (s : State) (b : Byte) : (s.putOut b).host = s.host := rfl

/-! `cmdError` -/

@[simp] theorem cmdError_resetSeen (c : CmdCause) (s : State) : (cmdError c s).resetSeen = s.resetSeen := rfl
@[simp] theorem cmdError_ctrl (c : CmdCause) (s : State) : (cmdError c s).ctrl = s.ctrl := rfl
@[simp] theorem cmdError_done (c : CmdCause) (s : State) : (cmdError c s).done = s.done := rfl
@[simp] theorem cmdError_err (c : CmdCause) (s : State) : (cmdError c s).err = s.err := rfl
@[simp] theorem cmdError_cmdErr (c : CmdCause) (s : State) : (cmdError c s).cmdErr = true := rfl
@[simp] theorem cmdError_errCode (c : CmdCause) (s : State) : (cmdError c s).errCode = s.errCode := rfl
@[simp] theorem cmdError_jobKind (c : CmdCause) (s : State) : (cmdError c s).jobKind = s.jobKind := rfl
@[simp] theorem cmdError_statusDegen (c : CmdCause) (s : State) : (cmdError c s).statusDegen = s.statusDegen := rfl
@[simp] theorem cmdError_cmdCause (c : CmdCause) (s : State) : (cmdError c s).cmdCause = c := rfl
@[simp] theorem cmdError_inLen (c : CmdCause) (s : State) : (cmdError c s).inLen = s.inLen := rfl
@[simp] theorem cmdError_inCount (c : CmdCause) (s : State) : (cmdError c s).inCount = s.inCount := rfl
@[simp] theorem cmdError_outCount (c : CmdCause) (s : State) : (cmdError c s).outCount = s.outCount := rfl
@[simp] theorem cmdError_entValid (c : CmdCause) (s : State) : (cmdError c s).entValid = s.entValid := rfl
@[simp] theorem cmdError_entLen (c : CmdCause) (s : State) : (cmdError c s).entLen = s.entLen := rfl
@[simp] theorem cmdError_entCode0 (c : CmdCause) (s : State) : (cmdError c s).entCode0 = s.entCode0 := rfl
@[simp] theorem cmdError_entCode1 (c : CmdCause) (s : State) : (cmdError c s).entCode1 = s.entCode1 := rfl
@[simp] theorem cmdError_entCode2 (c : CmdCause) (s : State) : (cmdError c s).entCode2 = s.entCode2 := rfl
@[simp] theorem cmdError_entCode3 (c : CmdCause) (s : State) : (cmdError c s).entCode3 = s.entCode3 := rfl
@[simp] theorem cmdError_tableCount (c : CmdCause) (s : State) : (cmdError c s).tableCount = s.tableCount := rfl
@[simp] theorem cmdError_errInfo (c : CmdCause) (s : State) : (cmdError c s).errInfo = s.errInfo := rfl
@[simp] theorem cmdError_skipCount (c : CmdCause) (s : State) : (cmdError c s).skipCount = s.skipCount := rfl
@[simp] theorem cmdError_lut (c : CmdCause) (s : State) : (cmdError c s).lut = s.lut := rfl
@[simp] theorem cmdError_inSlot (c : CmdCause) (s : State) : (cmdError c s).inSlot = s.inSlot := rfl
@[simp] theorem cmdError_outSlot (c : CmdCause) (s : State) : (cmdError c s).outSlot = s.outSlot := rfl
@[simp] theorem cmdError_eng (c : CmdCause) (s : State) : (cmdError c s).eng = s.eng := rfl
@[simp] theorem cmdError_host (c : CmdCause) (s : State) : (cmdError c s).host = s.host := rfl

/-! `endJob` -/

@[simp] theorem endJob_resetSeen (s : State) : (endJob s).resetSeen = s.resetSeen := rfl
@[simp] theorem endJob_ctrl (s : State) : (endJob s).ctrl = s.ctrl := rfl
@[simp] theorem endJob_done (s : State) : (endJob s).done = s.done := rfl
@[simp] theorem endJob_err (s : State) : (endJob s).err = s.err := rfl
@[simp] theorem endJob_cmdErr (s : State) : (endJob s).cmdErr = s.cmdErr := rfl
@[simp] theorem endJob_errCode (s : State) : (endJob s).errCode = s.errCode := rfl
@[simp] theorem endJob_jobKind (s : State) : (endJob s).jobKind = s.jobKind := rfl
@[simp] theorem endJob_statusDegen (s : State) : (endJob s).statusDegen = s.statusDegen := rfl
@[simp] theorem endJob_cmdCause (s : State) : (endJob s).cmdCause = s.cmdCause := rfl
@[simp] theorem endJob_inLen (s : State) : (endJob s).inLen = s.inLen := rfl
@[simp] theorem endJob_inCount (s : State) : (endJob s).inCount = s.inCount := rfl
@[simp] theorem endJob_outCount (s : State) : (endJob s).outCount = s.outCount := rfl
@[simp] theorem endJob_entValid (s : State) : (endJob s).entValid = s.entValid := rfl
@[simp] theorem endJob_entLen (s : State) : (endJob s).entLen = s.entLen := rfl
@[simp] theorem endJob_entCode0 (s : State) : (endJob s).entCode0 = s.entCode0 := rfl
@[simp] theorem endJob_entCode1 (s : State) : (endJob s).entCode1 = s.entCode1 := rfl
@[simp] theorem endJob_entCode2 (s : State) : (endJob s).entCode2 = s.entCode2 := rfl
@[simp] theorem endJob_entCode3 (s : State) : (endJob s).entCode3 = s.entCode3 := rfl
@[simp] theorem endJob_tableCount (s : State) : (endJob s).tableCount = s.tableCount := rfl
@[simp] theorem endJob_errInfo (s : State) : (endJob s).errInfo = s.errInfo := rfl
@[simp] theorem endJob_skipCount (s : State) : (endJob s).skipCount = s.skipCount := rfl
@[simp] theorem endJob_lut (s : State) : (endJob s).lut = s.lut := rfl
@[simp] theorem endJob_inSlot (s : State) : (endJob s).inSlot = s.inSlot := rfl
@[simp] theorem endJob_outSlot (s : State) : (endJob s).outSlot = none := rfl
@[simp] theorem endJob_eng (s : State) : (endJob s).eng = Engine.cleared := rfl
@[simp] theorem endJob_host (s : State) : (endJob s).host = s.host := rfl

/-! `finish` -/

@[simp] theorem finish_resetSeen (s : State) : (finish s).resetSeen = s.resetSeen := rfl
@[simp] theorem finish_ctrl (s : State) : (finish s).ctrl = s.ctrl := rfl
@[simp] theorem finish_done (s : State) : (finish s).done = true := rfl
@[simp] theorem finish_err (s : State) : (finish s).err = s.err := rfl
@[simp] theorem finish_cmdErr (s : State) : (finish s).cmdErr = s.cmdErr := rfl
@[simp] theorem finish_errCode (s : State) : (finish s).errCode = s.errCode := rfl
@[simp] theorem finish_jobKind (s : State) : (finish s).jobKind = s.jobKind := rfl
@[simp] theorem finish_statusDegen (s : State) : (finish s).statusDegen = s.statusDegen := rfl
@[simp] theorem finish_cmdCause (s : State) : (finish s).cmdCause = s.cmdCause := rfl
@[simp] theorem finish_inLen (s : State) : (finish s).inLen = s.inLen := rfl
@[simp] theorem finish_inCount (s : State) : (finish s).inCount = s.inCount := rfl
@[simp] theorem finish_outCount (s : State) : (finish s).outCount = s.outCount := rfl
@[simp] theorem finish_entValid (s : State) : (finish s).entValid = s.entValid := rfl
@[simp] theorem finish_entLen (s : State) : (finish s).entLen = s.entLen := rfl
@[simp] theorem finish_entCode0 (s : State) : (finish s).entCode0 = s.entCode0 := rfl
@[simp] theorem finish_entCode1 (s : State) : (finish s).entCode1 = s.entCode1 := rfl
@[simp] theorem finish_entCode2 (s : State) : (finish s).entCode2 = s.entCode2 := rfl
@[simp] theorem finish_entCode3 (s : State) : (finish s).entCode3 = s.entCode3 := rfl
@[simp] theorem finish_tableCount (s : State) : (finish s).tableCount = s.tableCount := rfl
@[simp] theorem finish_errInfo (s : State) : (finish s).errInfo = s.errInfo := rfl
@[simp] theorem finish_skipCount (s : State) : (finish s).skipCount = s.skipCount := rfl
@[simp] theorem finish_lut (s : State) : (finish s).lut = s.lut := rfl
@[simp] theorem finish_inSlot (s : State) : (finish s).inSlot = s.inSlot := rfl
@[simp] theorem finish_outSlot (s : State) : (finish s).outSlot = none := rfl
@[simp] theorem finish_eng (s : State) : (finish s).eng = Engine.cleared := rfl
@[simp] theorem finish_host (s : State) : (finish s).host = s.host := rfl

/-! `beginJob` -/

@[simp] theorem beginJob_resetSeen (k : JobKind) (s : State) : (beginJob k s).resetSeen = s.resetSeen := rfl
@[simp] theorem beginJob_ctrl (k : JobKind) (s : State) : (beginJob k s).ctrl = s.ctrl := rfl
@[simp] theorem beginJob_done (k : JobKind) (s : State) : (beginJob k s).done = false := rfl
@[simp] theorem beginJob_err (k : JobKind) (s : State) : (beginJob k s).err = false := rfl
@[simp] theorem beginJob_cmdErr (k : JobKind) (s : State) : (beginJob k s).cmdErr = s.cmdErr := rfl
@[simp] theorem beginJob_errCode (k : JobKind) (s : State) : (beginJob k s).errCode = .noError := rfl
@[simp] theorem beginJob_jobKind (k : JobKind) (s : State) : (beginJob k s).jobKind = k := rfl
@[simp] theorem beginJob_statusDegen (k : JobKind) (s : State) : (beginJob k s).statusDegen = false := rfl
@[simp] theorem beginJob_cmdCause (k : JobKind) (s : State) : (beginJob k s).cmdCause = s.cmdCause := rfl
@[simp] theorem beginJob_inLen (k : JobKind) (s : State) : (beginJob k s).inLen = s.inLen := rfl
@[simp] theorem beginJob_inCount (k : JobKind) (s : State) : (beginJob k s).inCount = 0 := rfl
@[simp] theorem beginJob_outCount (k : JobKind) (s : State) : (beginJob k s).outCount = 0 := rfl
@[simp] theorem beginJob_entValid (k : JobKind) (s : State) : (beginJob k s).entValid = s.entValid := rfl
@[simp] theorem beginJob_entLen (k : JobKind) (s : State) : (beginJob k s).entLen = s.entLen := rfl
@[simp] theorem beginJob_entCode0 (k : JobKind) (s : State) : (beginJob k s).entCode0 = s.entCode0 := rfl
@[simp] theorem beginJob_entCode1 (k : JobKind) (s : State) : (beginJob k s).entCode1 = s.entCode1 := rfl
@[simp] theorem beginJob_entCode2 (k : JobKind) (s : State) : (beginJob k s).entCode2 = s.entCode2 := rfl
@[simp] theorem beginJob_entCode3 (k : JobKind) (s : State) : (beginJob k s).entCode3 = s.entCode3 := rfl
@[simp] theorem beginJob_tableCount (k : JobKind) (s : State) : (beginJob k s).tableCount = s.tableCount := rfl
@[simp] theorem beginJob_errInfo (k : JobKind) (s : State) : (beginJob k s).errInfo = 0 := rfl
@[simp] theorem beginJob_skipCount (k : JobKind) (s : State) : (beginJob k s).skipCount = 0 := rfl
@[simp] theorem beginJob_lut (k : JobKind) (s : State) : (beginJob k s).lut = s.lut := rfl
@[simp] theorem beginJob_inSlot (k : JobKind) (s : State) : (beginJob k s).inSlot = s.inSlot := rfl
@[simp] theorem beginJob_outSlot (k : JobKind) (s : State) : (beginJob k s).outSlot = s.outSlot := rfl
@[simp] theorem beginJob_eng (k : JobKind) (s : State) : (beginJob k s).eng = s.eng := rfl
@[simp] theorem beginJob_host (k : JobKind) (s : State) : (beginJob k s).host = s.host := rfl

/-! `setEntry` -/

@[simp] theorem setEntry_resetSeen (s : State) (k : Sym) (e : Entry) : (s.setEntry k e).resetSeen = s.resetSeen := rfl
@[simp] theorem setEntry_ctrl (s : State) (k : Sym) (e : Entry) : (s.setEntry k e).ctrl = s.ctrl := rfl
@[simp] theorem setEntry_done (s : State) (k : Sym) (e : Entry) : (s.setEntry k e).done = s.done := rfl
@[simp] theorem setEntry_err (s : State) (k : Sym) (e : Entry) : (s.setEntry k e).err = s.err := rfl
@[simp] theorem setEntry_cmdErr (s : State) (k : Sym) (e : Entry) : (s.setEntry k e).cmdErr = s.cmdErr := rfl
@[simp] theorem setEntry_errCode (s : State) (k : Sym) (e : Entry) : (s.setEntry k e).errCode = s.errCode := rfl
@[simp] theorem setEntry_jobKind (s : State) (k : Sym) (e : Entry) : (s.setEntry k e).jobKind = s.jobKind := rfl
@[simp] theorem setEntry_statusDegen (s : State) (k : Sym) (e : Entry) : (s.setEntry k e).statusDegen = s.statusDegen := rfl
@[simp] theorem setEntry_cmdCause (s : State) (k : Sym) (e : Entry) : (s.setEntry k e).cmdCause = s.cmdCause := rfl
@[simp] theorem setEntry_inLen (s : State) (k : Sym) (e : Entry) : (s.setEntry k e).inLen = s.inLen := rfl
@[simp] theorem setEntry_inCount (s : State) (k : Sym) (e : Entry) : (s.setEntry k e).inCount = s.inCount := rfl
@[simp] theorem setEntry_outCount (s : State) (k : Sym) (e : Entry) : (s.setEntry k e).outCount = s.outCount := rfl
@[simp] theorem setEntry_entValid (s : State) (k : Sym) (e : Entry) : (s.setEntry k e).entValid = s.entValid := rfl
@[simp] theorem setEntry_entLen (s : State) (k : Sym) (e : Entry) : (s.setEntry k e).entLen = s.entLen := rfl
@[simp] theorem setEntry_entCode0 (s : State) (k : Sym) (e : Entry) : (s.setEntry k e).entCode0 = s.entCode0 := rfl
@[simp] theorem setEntry_entCode1 (s : State) (k : Sym) (e : Entry) : (s.setEntry k e).entCode1 = s.entCode1 := rfl
@[simp] theorem setEntry_entCode2 (s : State) (k : Sym) (e : Entry) : (s.setEntry k e).entCode2 = s.entCode2 := rfl
@[simp] theorem setEntry_entCode3 (s : State) (k : Sym) (e : Entry) : (s.setEntry k e).entCode3 = s.entCode3 := rfl
@[simp] theorem setEntry_tableCount (s : State) (k : Sym) (e : Entry) : (s.setEntry k e).tableCount = s.tableCount := rfl
@[simp] theorem setEntry_errInfo (s : State) (k : Sym) (e : Entry) : (s.setEntry k e).errInfo = s.errInfo := rfl
@[simp] theorem setEntry_skipCount (s : State) (k : Sym) (e : Entry) : (s.setEntry k e).skipCount = s.skipCount := rfl
@[simp] theorem setEntry_lut (s : State) (k : Sym) (e : Entry) : (s.setEntry k e).lut = s.lut.set k.toNat e k.isLt := rfl
@[simp] theorem setEntry_inSlot (s : State) (k : Sym) (e : Entry) : (s.setEntry k e).inSlot = s.inSlot := rfl
@[simp] theorem setEntry_outSlot (s : State) (k : Sym) (e : Entry) : (s.setEntry k e).outSlot = s.outSlot := rfl
@[simp] theorem setEntry_eng (s : State) (k : Sym) (e : Entry) : (s.setEntry k e).eng = s.eng := rfl
@[simp] theorem setEntry_host (s : State) (k : Sym) (e : Entry) : (s.setEntry k e).host = s.host := rfl

/-! `setStageCode` -/

@[simp] theorem setStageCode_resetSeen (s : State) (v : BitVec 128) : (s.setStageCode v).resetSeen = s.resetSeen := rfl
@[simp] theorem setStageCode_ctrl (s : State) (v : BitVec 128) : (s.setStageCode v).ctrl = s.ctrl := rfl
@[simp] theorem setStageCode_done (s : State) (v : BitVec 128) : (s.setStageCode v).done = s.done := rfl
@[simp] theorem setStageCode_err (s : State) (v : BitVec 128) : (s.setStageCode v).err = s.err := rfl
@[simp] theorem setStageCode_cmdErr (s : State) (v : BitVec 128) : (s.setStageCode v).cmdErr = s.cmdErr := rfl
@[simp] theorem setStageCode_errCode (s : State) (v : BitVec 128) : (s.setStageCode v).errCode = s.errCode := rfl
@[simp] theorem setStageCode_jobKind (s : State) (v : BitVec 128) : (s.setStageCode v).jobKind = s.jobKind := rfl
@[simp] theorem setStageCode_statusDegen (s : State) (v : BitVec 128) : (s.setStageCode v).statusDegen = s.statusDegen := rfl
@[simp] theorem setStageCode_cmdCause (s : State) (v : BitVec 128) : (s.setStageCode v).cmdCause = s.cmdCause := rfl
@[simp] theorem setStageCode_inLen (s : State) (v : BitVec 128) : (s.setStageCode v).inLen = s.inLen := rfl
@[simp] theorem setStageCode_inCount (s : State) (v : BitVec 128) : (s.setStageCode v).inCount = s.inCount := rfl
@[simp] theorem setStageCode_outCount (s : State) (v : BitVec 128) : (s.setStageCode v).outCount = s.outCount := rfl
@[simp] theorem setStageCode_entValid (s : State) (v : BitVec 128) : (s.setStageCode v).entValid = s.entValid := rfl
@[simp] theorem setStageCode_entLen (s : State) (v : BitVec 128) : (s.setStageCode v).entLen = s.entLen := rfl
@[simp] theorem setStageCode_entCode0 (s : State) (v : BitVec 128) : (s.setStageCode v).entCode0 = v.extractLsb' 0 32 := rfl
@[simp] theorem setStageCode_entCode1 (s : State) (v : BitVec 128) : (s.setStageCode v).entCode1 = v.extractLsb' 32 32 := rfl
@[simp] theorem setStageCode_entCode2 (s : State) (v : BitVec 128) : (s.setStageCode v).entCode2 = v.extractLsb' 64 32 := rfl
@[simp] theorem setStageCode_entCode3 (s : State) (v : BitVec 128) : (s.setStageCode v).entCode3 = v.extractLsb' 96 32 := rfl
@[simp] theorem setStageCode_tableCount (s : State) (v : BitVec 128) : (s.setStageCode v).tableCount = s.tableCount := rfl
@[simp] theorem setStageCode_errInfo (s : State) (v : BitVec 128) : (s.setStageCode v).errInfo = s.errInfo := rfl
@[simp] theorem setStageCode_skipCount (s : State) (v : BitVec 128) : (s.setStageCode v).skipCount = s.skipCount := rfl
@[simp] theorem setStageCode_lut (s : State) (v : BitVec 128) : (s.setStageCode v).lut = s.lut := rfl
@[simp] theorem setStageCode_inSlot (s : State) (v : BitVec 128) : (s.setStageCode v).inSlot = s.inSlot := rfl
@[simp] theorem setStageCode_outSlot (s : State) (v : BitVec 128) : (s.setStageCode v).outSlot = s.outSlot := rfl
@[simp] theorem setStageCode_eng (s : State) (v : BitVec 128) : (s.setStageCode v).eng = s.eng := rfl
@[simp] theorem setStageCode_host (s : State) (v : BitVec 128) : (s.setStageCode v).host = s.host := rfl

/-! `setTurns` -/

@[simp] theorem setTurns_resetSeen (s : State) (ts : List Turn) : (s.setTurns ts).resetSeen = s.resetSeen := rfl
@[simp] theorem setTurns_ctrl (s : State) (ts : List Turn) : (s.setTurns ts).ctrl = s.ctrl := rfl
@[simp] theorem setTurns_done (s : State) (ts : List Turn) : (s.setTurns ts).done = s.done := rfl
@[simp] theorem setTurns_err (s : State) (ts : List Turn) : (s.setTurns ts).err = s.err := rfl
@[simp] theorem setTurns_cmdErr (s : State) (ts : List Turn) : (s.setTurns ts).cmdErr = s.cmdErr := rfl
@[simp] theorem setTurns_errCode (s : State) (ts : List Turn) : (s.setTurns ts).errCode = s.errCode := rfl
@[simp] theorem setTurns_jobKind (s : State) (ts : List Turn) : (s.setTurns ts).jobKind = s.jobKind := rfl
@[simp] theorem setTurns_statusDegen (s : State) (ts : List Turn) : (s.setTurns ts).statusDegen = s.statusDegen := rfl
@[simp] theorem setTurns_cmdCause (s : State) (ts : List Turn) : (s.setTurns ts).cmdCause = s.cmdCause := rfl
@[simp] theorem setTurns_inLen (s : State) (ts : List Turn) : (s.setTurns ts).inLen = s.inLen := rfl
@[simp] theorem setTurns_inCount (s : State) (ts : List Turn) : (s.setTurns ts).inCount = s.inCount := rfl
@[simp] theorem setTurns_outCount (s : State) (ts : List Turn) : (s.setTurns ts).outCount = s.outCount := rfl
@[simp] theorem setTurns_entValid (s : State) (ts : List Turn) : (s.setTurns ts).entValid = s.entValid := rfl
@[simp] theorem setTurns_entLen (s : State) (ts : List Turn) : (s.setTurns ts).entLen = s.entLen := rfl
@[simp] theorem setTurns_entCode0 (s : State) (ts : List Turn) : (s.setTurns ts).entCode0 = s.entCode0 := rfl
@[simp] theorem setTurns_entCode1 (s : State) (ts : List Turn) : (s.setTurns ts).entCode1 = s.entCode1 := rfl
@[simp] theorem setTurns_entCode2 (s : State) (ts : List Turn) : (s.setTurns ts).entCode2 = s.entCode2 := rfl
@[simp] theorem setTurns_entCode3 (s : State) (ts : List Turn) : (s.setTurns ts).entCode3 = s.entCode3 := rfl
@[simp] theorem setTurns_tableCount (s : State) (ts : List Turn) : (s.setTurns ts).tableCount = s.tableCount := rfl
@[simp] theorem setTurns_errInfo (s : State) (ts : List Turn) : (s.setTurns ts).errInfo = s.errInfo := rfl
@[simp] theorem setTurns_skipCount (s : State) (ts : List Turn) : (s.setTurns ts).skipCount = s.skipCount := rfl
@[simp] theorem setTurns_lut (s : State) (ts : List Turn) : (s.setTurns ts).lut = s.lut := rfl
@[simp] theorem setTurns_inSlot (s : State) (ts : List Turn) : (s.setTurns ts).inSlot = s.inSlot := rfl
@[simp] theorem setTurns_outSlot (s : State) (ts : List Turn) : (s.setTurns ts).outSlot = s.outSlot := rfl
@[simp] theorem setTurns_eng (s : State) (ts : List Turn) : (s.setTurns ts).eng = s.eng := rfl
@[simp] theorem setTurns_host (s : State) (ts : List Turn) : (s.setTurns ts).host = { s.host with turns := ts } := rfl

/-! `hostOffer` -/

@[simp] theorem hostOffer_resetSeen (b : Byte) (s : State) : (hostOffer b s).resetSeen = s.resetSeen := rfl
@[simp] theorem hostOffer_ctrl (b : Byte) (s : State) : (hostOffer b s).ctrl = s.ctrl := rfl
@[simp] theorem hostOffer_done (b : Byte) (s : State) : (hostOffer b s).done = s.done := rfl
@[simp] theorem hostOffer_err (b : Byte) (s : State) : (hostOffer b s).err = s.err := rfl
@[simp] theorem hostOffer_cmdErr (b : Byte) (s : State) : (hostOffer b s).cmdErr = s.cmdErr := rfl
@[simp] theorem hostOffer_errCode (b : Byte) (s : State) : (hostOffer b s).errCode = s.errCode := rfl
@[simp] theorem hostOffer_jobKind (b : Byte) (s : State) : (hostOffer b s).jobKind = s.jobKind := rfl
@[simp] theorem hostOffer_statusDegen (b : Byte) (s : State) : (hostOffer b s).statusDegen = s.statusDegen := rfl
@[simp] theorem hostOffer_cmdCause (b : Byte) (s : State) : (hostOffer b s).cmdCause = s.cmdCause := rfl
@[simp] theorem hostOffer_inLen (b : Byte) (s : State) : (hostOffer b s).inLen = s.inLen := rfl
@[simp] theorem hostOffer_inCount (b : Byte) (s : State) : (hostOffer b s).inCount = s.inCount := rfl
@[simp] theorem hostOffer_outCount (b : Byte) (s : State) : (hostOffer b s).outCount = s.outCount := rfl
@[simp] theorem hostOffer_entValid (b : Byte) (s : State) : (hostOffer b s).entValid = s.entValid := rfl
@[simp] theorem hostOffer_entLen (b : Byte) (s : State) : (hostOffer b s).entLen = s.entLen := rfl
@[simp] theorem hostOffer_entCode0 (b : Byte) (s : State) : (hostOffer b s).entCode0 = s.entCode0 := rfl
@[simp] theorem hostOffer_entCode1 (b : Byte) (s : State) : (hostOffer b s).entCode1 = s.entCode1 := rfl
@[simp] theorem hostOffer_entCode2 (b : Byte) (s : State) : (hostOffer b s).entCode2 = s.entCode2 := rfl
@[simp] theorem hostOffer_entCode3 (b : Byte) (s : State) : (hostOffer b s).entCode3 = s.entCode3 := rfl
@[simp] theorem hostOffer_tableCount (b : Byte) (s : State) : (hostOffer b s).tableCount = s.tableCount := rfl
@[simp] theorem hostOffer_errInfo (b : Byte) (s : State) : (hostOffer b s).errInfo = s.errInfo := rfl
@[simp] theorem hostOffer_skipCount (b : Byte) (s : State) : (hostOffer b s).skipCount = s.skipCount := rfl
@[simp] theorem hostOffer_lut (b : Byte) (s : State) : (hostOffer b s).lut = s.lut := rfl
@[simp] theorem hostOffer_inSlot (b : Byte) (s : State) : (hostOffer b s).inSlot = some b := rfl
@[simp] theorem hostOffer_outSlot (b : Byte) (s : State) : (hostOffer b s).outSlot = s.outSlot := rfl
@[simp] theorem hostOffer_eng (b : Byte) (s : State) : (hostOffer b s).eng = s.eng := rfl
@[simp] theorem hostOffer_host (b : Byte) (s : State) : (hostOffer b s).host = s.host := rfl

/-! `jobError`: what it changes apart from E and OUT.slot, which end_job clears. -/

@[simp] theorem jobError_resetSeen (c : ErrCode) (w : Word) (s : State) : (jobError c w s).resetSeen = s.resetSeen := by
  unfold jobError; split <;> rfl
@[simp] theorem jobError_ctrl (c : ErrCode) (w : Word) (s : State) : (jobError c w s).ctrl = s.ctrl := by
  unfold jobError; split <;> rfl
@[simp] theorem jobError_done (c : ErrCode) (w : Word) (s : State) : (jobError c w s).done = s.done := by
  unfold jobError; split <;> rfl
@[simp] theorem jobError_err (c : ErrCode) (w : Word) (s : State) : (jobError c w s).err = true := rfl
@[simp] theorem jobError_cmdErr (c : ErrCode) (w : Word) (s : State) : (jobError c w s).cmdErr = s.cmdErr := by
  unfold jobError; split <;> rfl
@[simp] theorem jobError_errCode (c : ErrCode) (w : Word) (s : State) : (jobError c w s).errCode = c := rfl
@[simp] theorem jobError_jobKind (c : ErrCode) (w : Word) (s : State) : (jobError c w s).jobKind = s.jobKind := by
  unfold jobError; split <;> rfl
@[simp] theorem jobError_statusDegen (c : ErrCode) (w : Word) (s : State) : (jobError c w s).statusDegen = s.statusDegen := by
  unfold jobError; split <;> rfl
@[simp] theorem jobError_cmdCause (c : ErrCode) (w : Word) (s : State) : (jobError c w s).cmdCause = s.cmdCause := by
  unfold jobError; split <;> rfl
@[simp] theorem jobError_inLen (c : ErrCode) (w : Word) (s : State) : (jobError c w s).inLen = s.inLen := by
  unfold jobError; split <;> rfl
@[simp] theorem jobError_inCount (c : ErrCode) (w : Word) (s : State) : (jobError c w s).inCount = s.inCount := by
  unfold jobError; split <;> rfl
@[simp] theorem jobError_outCount (c : ErrCode) (w : Word) (s : State) : (jobError c w s).outCount = s.outCount := by
  unfold jobError; split <;> rfl
@[simp] theorem jobError_entValid (c : ErrCode) (w : Word) (s : State) : (jobError c w s).entValid = s.entValid := by
  unfold jobError; split <;> rfl
@[simp] theorem jobError_entLen (c : ErrCode) (w : Word) (s : State) : (jobError c w s).entLen = s.entLen := by
  unfold jobError; split <;> rfl
@[simp] theorem jobError_entCode0 (c : ErrCode) (w : Word) (s : State) : (jobError c w s).entCode0 = s.entCode0 := by
  unfold jobError; split <;> rfl
@[simp] theorem jobError_entCode1 (c : ErrCode) (w : Word) (s : State) : (jobError c w s).entCode1 = s.entCode1 := by
  unfold jobError; split <;> rfl
@[simp] theorem jobError_entCode2 (c : ErrCode) (w : Word) (s : State) : (jobError c w s).entCode2 = s.entCode2 := by
  unfold jobError; split <;> rfl
@[simp] theorem jobError_entCode3 (c : ErrCode) (w : Word) (s : State) : (jobError c w s).entCode3 = s.entCode3 := by
  unfold jobError; split <;> rfl
@[simp] theorem jobError_tableCount (c : ErrCode) (w : Word) (s : State) : (jobError c w s).tableCount = s.tableCount := by
  unfold jobError; split <;> rfl
@[simp] theorem jobError_errInfo (c : ErrCode) (w : Word) (s : State) : (jobError c w s).errInfo = w := rfl
@[simp] theorem jobError_skipCount (c : ErrCode) (w : Word) (s : State) : (jobError c w s).skipCount = s.skipCount := by
  unfold jobError; split <;> rfl
@[simp] theorem jobError_lut (c : ErrCode) (w : Word) (s : State) : (jobError c w s).lut = s.lut := by
  unfold jobError; split <;> rfl
@[simp] theorem jobError_inSlot (c : ErrCode) (w : Word) (s : State) : (jobError c w s).inSlot = s.inSlot := by
  unfold jobError; split <;> rfl
@[simp] theorem jobError_host (c : ErrCode) (w : Word) (s : State) : (jobError c w s).host = s.host := by
  unfold jobError; split <;> rfl

/-- With a job running, `jobError` clears E (R99, R203). -/
theorem jobError_eng_of_busy (c : ErrCode) (w : Word) {s : State} (h : s.eng.job ≠ .idle) :
    (jobError c w s).eng = Engine.cleared := by
  simp [jobError, h]

/-- With a job running, `jobError` drops the byte in OUT.slot (R203). -/
theorem jobError_outSlot_of_busy (c : ErrCode) (w : Word) {s : State} (h : s.eng.job ≠ .idle) :
    (jobError c w s).outSlot = none := by
  simp [jobError, h]

/-- With no job running, `jobError` records the error and nothing else (R203, R205). -/
theorem jobError_of_idle (c : ErrCode) (w : Word) {s : State} (h : s.eng.job = .idle) :
    jobError c w s = { s with err := true, errCode := c, errInfo := w } := by
  simp [jobError, h]

@[simp] theorem cleared_job : Engine.cleared.job = .idle := rfl
@[simp] theorem cleared_encActive : Engine.cleared.encActive = false := rfl
@[simp] theorem cleared_decIntok : Engine.cleared.decIntok = false := rfl
@[simp] theorem cleared_degen : Engine.cleared.degen = false := rfl
@[simp] theorem cleared_remaining : Engine.cleared.remaining = 0 := rfl

/-! E with no token open. -/

@[simp] theorem noToken_job (e : Engine) : e.noToken.job = e.job := rfl
@[simp] theorem noToken_remaining (e : Engine) : e.noToken.remaining = e.remaining := rfl
@[simp] theorem noToken_encActive (e : Engine) : e.noToken.encActive = e.encActive := rfl
@[simp] theorem noToken_encSym (e : Engine) : e.noToken.encSym = e.encSym := rfl
@[simp] theorem noToken_encPos (e : Engine) : e.noToken.encPos = e.encPos := rfl
@[simp] theorem noToken_degen (e : Engine) : e.noToken.degen = e.degen := rfl
@[simp] theorem noToken_degSym (e : Engine) : e.noToken.degSym = e.degSym := rfl
@[simp] theorem noToken_decIntok (e : Engine) : e.noToken.decIntok = false := rfl
@[simp] theorem noToken_decDead (e : Engine) : e.noToken.decDead = false := rfl
@[simp] theorem noToken_decLen (e : Engine) : e.noToken.decLen = 0 := rfl
@[simp] theorem noToken_decAcc (e : Engine) : e.noToken.decAcc = 0 := rfl

end Sys2Proof.Laws
end

