-- ==== Sys2Proof/Laws/Lut.lean ====
section
/-! SUPPORT. Rows of the LUT: read after write, the symbols of the valid rows, and what each search of the rows finds. -/

namespace Sys2Proof.Laws

open Sys2Proof.Machine

/-! ## Rows -/

@[simp] theorem lutAt_empty (k : Sym) : lutAt Lut.empty k = Entry.invalid := by
  simp [lutAt, Lut.empty]

@[simp] theorem lutAt_set_self (lut : Lut) (k : Sym) (e : Entry) : lutAt (lut.set k.toNat e k.isLt) k = e := by
  simp [lutAt]

theorem lutAt_set_ne (lut : Lut) {j k : Sym} (e : Entry) (h : j ≠ k) :
    lutAt (lut.set k.toNat e k.isLt) j = lutAt lut j := by
  have : k.toNat ≠ j.toNat := fun hk => h (BitVec.eq_of_toNat_eq hk.symm)
  simp [lutAt, this]

theorem lutAt_set (lut : Lut) (j k : Sym) (e : Entry) :
    lutAt (lut.set k.toNat e k.isLt) j = if j = k then e else lutAt lut j := by
  by_cases h : j = k
  · subst h; simp
  · simp [h, lutAt_set_ne lut e h]

@[simp] theorem entry_setEntry_self (s : State) (k : Sym) (e : Entry) : (s.setEntry k e).entry k = e := by
  simp [State.entry]

theorem entry_setEntry_ne (s : State) {j k : Sym} (e : Entry) (h : j ≠ k) :
    (s.setEntry k e).entry j = s.entry j := by
  simp [State.entry, lutAt_set_ne _ _ h]

@[simp] theorem lut_toList_length (lut : Lut) : lut.toList.length = 128 := by
  simp

/-- Row `k` is element `k` of the list of rows. -/
theorem lut_toList_getElem? (lut : Lut) (k : Sym) : lut.toList[k.toNat]? = some (lutAt lut k) := by
  have h : k.toNat < lut.toList.length := by simpa using k.isLt
  rw [List.getElem?_eq_getElem h]
  simp [lutAt]

/-- An element of the list of rows is the row of its index. -/
theorem lutAt_of_getElem? {lut : Lut} {n : Nat} {e : Entry} (h : lut.toList[n]? = some e) :
    n < 128 ∧ lutAt lut (BitVec.ofNat 7 n) = e := by
  have hn : n < 128 := by
    have := (List.getElem?_eq_some_iff.mp h).1
    simpa using this
  have hk : (BitVec.ofNat 7 n).toNat = n := by simp; omega
  have := lut_toList_getElem? lut (BitVec.ofNat 7 n)
  rw [hk, h] at this
  exact ⟨hn, by simpa using this.symm⟩

/-! ## Symbols -/

@[simp] theorem mem_allSyms (k : Sym) : k ∈ allSyms := by
  refine List.mem_map.mpr ⟨k.toNat, List.mem_range.mpr k.isLt, ?_⟩
  simp

theorem allSyms_nodup : allSyms.Nodup := by
  refine List.Nodup.map_on ?_ List.nodup_range
  intro a ha b hb h
  have ha : a < 128 := List.mem_range.mp ha
  have hb : b < 128 := List.mem_range.mp hb
  have := congrArg BitVec.toNat h
  simp at this
  omega

@[simp] theorem allSyms_length : allSyms.length = 128 := by
  simp [allSyms, Config.alphabetSize]

@[simp] theorem mem_validSyms (lut : Lut) (k : Sym) : k ∈ validSyms lut ↔ (lutAt lut k).valid = true := by
  simp [validSyms]

theorem validSyms_nodup (lut : Lut) : (validSyms lut).Nodup :=
  allSyms_nodup.filter _

theorem validSyms_length_le (lut : Lut) : (validSyms lut).length ≤ 128 := by
  have := List.length_filter_le (fun k => (lutAt lut k).valid) allSyms
  simpa [validSyms] using this

@[simp] theorem validSyms_empty : validSyms Lut.empty = [] := by
  simp [validSyms, Entry.invalid]

/-- Two tests that agree off `k` count the elements of a list without repeats alike, but for `k`. -/
theorem filter_length_of_eq_off {α : Type} (p q : α → Bool) (k : α) (hpq : ∀ x, x ≠ k → p x = q x) :
    ∀ l : List α, l.Nodup → k ∈ l →
      (l.filter p).length + (q k).toNat = (l.filter q).length + (p k).toNat
  | [], _, hk => by simp at hk
  | x :: l, hl, hk => by
    obtain ⟨hx, hl⟩ := List.nodup_cons.mp hl
    rcases List.mem_cons.mp hk with rfl | hk
    · have : l.filter p = l.filter q :=
        List.filter_congr fun y hy => hpq y (fun e => hx (e ▸ hy))
      cases hp : p k <;> cases hq : q k <;> simp [hp, hq, this]
    · have ih := filter_length_of_eq_off p q k hpq l hl hk
      have hxk : x ≠ k := fun e => hx (e ▸ hk)
      have := hpq x hxk
      cases hq : q x <;> simp [this, hq] <;> omega

/-- Writing one row changes the number of valid rows by that row alone (R112). -/
theorem validSyms_length_set (lut : Lut) (k : Sym) (e : Entry) :
    (validSyms (lut.set k.toNat e k.isLt)).length + (lutAt lut k).valid.toNat =
      (validSyms lut).length + e.valid.toNat := by
  have := filter_length_of_eq_off (fun j => (lutAt (lut.set k.toNat e k.isLt) j).valid)
    (fun j => (lutAt lut j).valid) k (fun j hj => by simp [lutAt_set_ne lut e hj]) allSyms allSyms_nodup (by simp)
  simpa [validSyms] using this

/-! ## Searches -/

/-- `firstSame` finds the first row with the same code. -/
theorem firstSame_some {e : Entry} : ∀ {es : List Entry} {i j : Nat}, firstSame e es i = some j →
    ∃ n x, j = i + n ∧ es[n]? = some x ∧ e.sameCode x = true ∧
      ∀ m y, m < n → es[m]? = some y → e.sameCode y = false
  | [], _, _, h => by simp [firstSame] at h
  | x :: es, i, j, h => by
    unfold firstSame at h
    split at h
    · rename_i hx
      refine ⟨0, x, by simpa using h.symm, rfl, hx, fun m _ hm => by omega⟩
    · rename_i hx
      obtain ⟨n, y, rfl, hy, hs, hlt⟩ := firstSame_some h
      refine ⟨n + 1, y, by omega, by simpa using hy, hs, ?_⟩
      rintro (_ | m) z hm hz
      · simpa [← (by simpa using hz : x = z)] using hx
      · exact hlt m z (by omega) (by simpa using hz)

/-- `firstSame` finds nothing exactly where no row has the same code. -/
theorem firstSame_none {e : Entry} : ∀ {es : List Entry} {i : Nat}, firstSame e es i = none →
    ∀ x ∈ es, e.sameCode x = false
  | [], _, _ => by simp
  | x :: es, i, h => by
    unfold firstSame at h
    split at h
    · simp at h
    · rename_i hx
      intro y hy
      rcases List.mem_cons.mp hy with rfl | hy
      · simpa using hx
      · exact firstSame_none h y hy

/-- Elements `m` and `n` of a list of rows, `m < n`, have the same code, and no such pair stands before them in
lexicographic order (R115). -/
def FirstPairAt (es : List Entry) (m n : Nat) : Prop :=
  ∃ x y, m < n ∧ es[m]? = some x ∧ es[n]? = some y ∧ x.sameCode y = true ∧
    ∀ m' n' x' y', m' < n' → es[m']? = some x' → es[n']? = some y' → x'.sameCode y' = true →
      m < m' ∨ (m = m' ∧ n ≤ n')

/-- A row in front that has no partner moves the first pair on by one. -/
theorem FirstPairAt.cons {es : List Entry} {m n : Nat} (h : FirstPairAt es m n) (e : Entry)
    (he : ∀ x ∈ es, e.sameCode x = false) : FirstPairAt (e :: es) (m + 1) (n + 1) := by
  obtain ⟨x, y, hmn, hx, hy, hs, hmin⟩ := h
  refine ⟨x, y, by omega, by simpa using hx, by simpa using hy, hs, ?_⟩
  rintro (_ | m') (_ | n') x' y' hlt hx' hy' hs'
  · omega
  · have : x' = e := by simpa using hx'.symm
    subst this
    have := he y' (List.mem_of_getElem? (by simpa using hy'))
    simp [this] at hs'
  · omega
  · rcases hmin m' n' x' y' (by omega) (by simpa using hx') (by simpa using hy') hs' with h | ⟨h, h'⟩ <;> omega

/-- A row in front whose first partner is element `n` behind it makes the first pair. -/
theorem firstPairAt_head {e x : Entry} {es : List Entry} {n : Nat} (hx : es[n]? = some x)
    (hs : e.sameCode x = true) (hlt : ∀ m y, m < n → es[m]? = some y → e.sameCode y = false) :
    FirstPairAt (e :: es) 0 (n + 1) := by
  refine ⟨e, x, by omega, rfl, by simpa using hx, hs, ?_⟩
  rintro (_ | m') (_ | n') x' y' hlt' hx' hy' hs'
  · omega
  · refine Or.inr ⟨rfl, ?_⟩
    by_contra hn
    have : x' = e := by simpa using hx'.symm
    subst this
    have := hlt n' y' (by omega) (by simpa using hy')
    simp [this] at hs'
  · omega
  · omega

/-- `firstPair` finds the first pair of rows with the same code, in lexicographic order (R115). -/
theorem firstPair_some : ∀ {es : List Entry} {b i j : Nat}, firstPair es b = some (i, j) →
    ∃ m n, i = b + m ∧ j = b + n ∧ FirstPairAt es m n
  | [], _, _, _, h => by simp [firstPair] at h
  | e :: es, b, i, j, h => by
    have later (hno : ∀ x ∈ es, e.sameCode x = false) (hp : firstPair es (b + 1) = some (i, j)) :
        ∃ m n, i = b + m ∧ j = b + n ∧ FirstPairAt (e :: es) m n := by
      obtain ⟨m, n, rfl, rfl, hf⟩ := firstPair_some hp
      exact ⟨m + 1, n + 1, by omega, by omega, hf.cons e hno⟩
    unfold firstPair at h
    split at h
    · split at h
      · rename_i j' hf
        obtain ⟨n, x, rfl, hx, hs, hlt⟩ := firstSame_some hf
        obtain ⟨rfl, rfl⟩ : b = i ∧ b + 1 + n = j := by simpa using h
        exact ⟨0, n + 1, by omega, by omega, firstPairAt_head hx hs hlt⟩
      · rename_i hf
        exact later (firstSame_none hf) h
    · rename_i hv
      exact later (fun x _ => by simp [Entry.sameCode, hv]) h

/-- `firstPair` finds nothing only where no two rows have the same code. -/
theorem firstPair_none : ∀ {es : List Entry} {b : Nat}, firstPair es b = none →
    ∀ (m n : Nat) (x y : Entry), m < n → es[m]? = some x → es[n]? = some y → x.sameCode y = false
  | [], _, _, m, n, x, y, _, hx, _ => by simp at hx
  | e :: es, b, h, m, n, x, y, hmn, hx, hy => by
    have both : (∀ x ∈ es, e.sameCode x = false) ∧ firstPair es (b + 1) = none := by
      unfold firstPair at h
      split at h
      · split at h
        · simp at h
        · rename_i hf
          exact ⟨firstSame_none hf, h⟩
      · rename_i hv
        exact ⟨fun x _ => by simp [Entry.sameCode, hv], h⟩
    rcases m with _ | m <;> rcases n with _ | n
    · omega
    · have : x = e := by simpa using hx.symm
      subst this
      exact both.1 y (List.mem_of_getElem? (by simpa using hy))
    · omega
    · exact firstPair_none both.2 m n x y (by omega) (by simpa using hx) (by simpa using hy)

/-- `firstMatch` finds a valid row of that length and value. -/
theorem firstMatch_some {len : CodeLen} {v : Code} : ∀ {es : List Entry} {i j : Nat},
    firstMatch len v es i = some j →
    ∃ n e, j = i + n ∧ es[n]? = some e ∧ e.valid = true ∧ e.len = len ∧ e.code = v
  | [], _, _, h => by simp [firstMatch] at h
  | e :: es, i, j, h => by
    unfold firstMatch at h
    split at h
    · rename_i he
      simp only [Bool.and_eq_true, beq_iff_eq] at he
      exact ⟨0, e, by simpa using h.symm, rfl, he.1.1, he.1.2, he.2⟩
    · obtain ⟨n, x, rfl, hx, hr⟩ := firstMatch_some h
      exact ⟨n + 1, x, by omega, by simpa using hx, hr⟩

/-- `firstMatch` finds nothing only where there is no such row. -/
theorem firstMatch_none {len : CodeLen} {v : Code} : ∀ {es : List Entry} {i : Nat},
    firstMatch len v es i = none → ∀ e ∈ es, ¬(e.valid = true ∧ e.len = len ∧ e.code = v)
  | [], _, _ => by simp
  | e :: es, i, h => by
    unfold firstMatch at h
    split at h
    · simp at h
    · rename_i he
      intro x hx
      rcases List.mem_cons.mp hx with rfl | hx
      · simpa [and_assoc] using he
      · exact firstMatch_none h x hx

/-- `firstValid` finds the first valid row. -/
theorem firstValid_some : ∀ {es : List Entry} {i j : Nat} {e : Entry}, firstValid es i = some (j, e) →
    ∃ n, j = i + n ∧ es[n]? = some e ∧ e.valid = true
  | [], _, _, _, h => by simp [firstValid] at h
  | x :: es, i, j, e, h => by
    unfold firstValid at h
    split at h
    · rename_i hx
      have h : i = j ∧ x = e := by simpa using h
      exact ⟨0, by omega, by simp [h.2], h.2 ▸ hx⟩
    · obtain ⟨n, rfl, hx, hr⟩ := firstValid_some h
      exact ⟨n + 1, by omega, by simpa using hx, hr⟩

/-- `firstValid` finds nothing only where no row is valid. -/
theorem firstValid_none : ∀ {es : List Entry} {i : Nat}, firstValid es i = none → ∀ e ∈ es, e.valid = false
  | [], _, _ => by simp
  | x :: es, i, h => by
    unfold firstValid at h
    split at h
    · simp at h
    · rename_i hx
      intro e he
      rcases List.mem_cons.mp he with rfl | he
      · simpa using hx
      · exact firstValid_none h e he

end Sys2Proof.Laws
end

