-- ==== Sys2Proof/Laws/Step.lean ====
section
/-! SUPPORT. What one step can do, said once: a step is a Reset before the first reset, a turn of the engine, or the host's or
the platform's next move. -/

namespace Sys2Proof.Laws

open Sys2Proof.Machine

/-- What a step that answers a next state did (R56, R103, R232). -/
theorem step_cases {s t : State} (h : step s = .next t) :
    (s.resetSeen = false ∧ ∃ ts, s.host.turns = .reset :: ts ∧ t = platformReset (s.setTurns ts)) ∨
    (s.resetSeen = true ∧ t = engineTurn s) ∨
    (s.resetSeen = true ∧ ∃ m ts, s.host.turns = m :: ts ∧ turnGuard m s = true ∧
      turnRun m (s.setTurns ts) = .next t) := by
  unfold step at h
  split at h
  · rename_i hr
    unfold liveStep at h
    split at h
    · exact .inr (.inl ⟨hr, by simpa using h.symm⟩)
    · rename_i m ts hm
      split at h
      · rename_i hg
        exact .inr (.inr ⟨hr, m, ts, hm, hg, h⟩)
      · exact .inr (.inl ⟨hr, by simpa using h.symm⟩)
  · rename_i hr
    unfold powerUpStep at h
    split at h
    · rename_i ts hm
      exact .inl ⟨by simpa using hr, ts, hm, by simpa using h.symm⟩
    · simp at h

/-- What a turn that answers a next state did, the command of a CMD write decoded (R90 to R95, R230). -/
theorem turnRun_cases {m : Turn} {s t : State} (h : turnRun m s = .next t) :
    (∃ off, m = .regRead off ∧ t = regRead off s) ∨
    (∃ off w, m = .regWrite off w ∧ regOfOffset off ≠ .cmd ∧ t = writeReg (regOfOffset off) w s) ∨
    (∃ off w why, m = .regWrite off w ∧ regOfOffset off = .cmd ∧ decode w = .illegal why ∧
      t = cmdError (illegalCause why) s) ∨
    (∃ off w i, m = .regWrite off w ∧ regOfOffset off = .cmd ∧ decode w = .command i ∧ exec i s = .next t) ∨
    (∃ b, m = .offer b ∧ t = hostOffer b s) ∨
    (m = .take ∧ t = hostTake s) ∨
    (m = .reset ∧ t = platformReset s) ∨
    (m = .engine ∧ t = engineTurn s) := by
  cases m with
  | regRead off => exact .inl ⟨off, rfl, by simpa [turnRun] using h.symm⟩
  | regWrite off w =>
    simp only [turnRun, regWrite] at h
    split at h
    · rename_i hc
      unfold dispatch at h
      split at h
      · rename_i why hw
        exact .inr (.inr (.inl ⟨off, w, why, rfl, hc, hw, by simpa using h.symm⟩))
      · rename_i i hi
        exact .inr (.inr (.inr (.inl ⟨off, w, i, rfl, hc, hi, h⟩)))
    · rename_i hc
      exact .inr (.inl ⟨off, w, rfl, hc, by simpa using h.symm⟩)
  | offer b => exact .inr (.inr (.inr (.inr (.inl ⟨b, rfl, by simpa [turnRun] using h.symm⟩))))
  | take => exact .inr (.inr (.inr (.inr (.inr (.inl ⟨rfl, by simpa [turnRun] using h.symm⟩)))))
  | reset => exact .inr (.inr (.inr (.inr (.inr (.inr (.inl ⟨rfl, by simpa [turnRun] using h.symm⟩))))))
  | engine => exact .inr (.inr (.inr (.inr (.inr (.inr (.inr ⟨rfl, by simpa [turnRun] using h.symm⟩))))))

/-- A turn of the engine is one enabled step, or a wait (R103). -/
theorem engineTurn_cases (s : State) :
    (∃ e, engineGuard e s = true ∧ engineTurn s = engineRun e s) ∨
    ((∀ e, engineGuard e s = false) ∧ engineTurn s = s) := by
  unfold engineTurn enabledStep
  split
  · rename_i e he
    exact .inl ⟨e, by simpa using List.find?_some he, rfl⟩
  · rename_i he
    refine .inr ⟨fun e => ?_, rfl⟩
    have := List.find?_eq_none.mp he e (by cases e <;> simp [engineSteps])
    simpa using this

/-- The register number of CMD (R23). -/
theorem regOfOffset_eq_cmd (off : BitVec 6) : regOfOffset off = .cmd ↔ off.extractLsb' 2 4 = 3 := by
  revert off
  decide

/-- The register number of STATUS (R23). -/
theorem regOfOffset_eq_status (off : BitVec 6) : regOfOffset off = .status ↔ off.extractLsb' 2 4 = 4 := by
  revert off
  decide

/-- STATUS.BUSY is bit 0 of STATUS (R28, R39). -/
theorem statusWord_busy (s : State) : s.statusWord.getLsbD 0 = true ↔ s.eng.job ≠ .idle := by
  simp [State.statusWord, bitAt, State.busy]

/-- A command with the BUSY check, no job running. -/
theorem whenIdle_of_idle (f : State → State) {s : State} (h : s.eng.job = .idle) : whenIdle f s = f s := by
  simp [whenIdle, h]

/-- A command with the BUSY check, a job running (R93). -/
theorem whenIdle_of_busy (f : State → State) {s : State} (h : s.eng.job ≠ .idle) :
    whenIdle f s = cmdError .busy s := by
  simp [whenIdle, h]

/-- Steps one after another: `m` and then `n`. -/
theorem run_add (M : Host.Core) {m n : Nat} {s t : M.State} (h : M.run m s = .next t) :
    M.run (m + n) s = M.run n t := by
  induction m generalizing s with
  | zero =>
    simp only [Host.Core.run, Host.Outcome.next.injEq] at h
    rw [h, Nat.zero_add]
  | succ m ih =>
    rw [Nat.add_right_comm]
    simp only [Host.Core.run] at h ⊢
    split at h
    · exact ih h
    · simp at h
    · simp at h

/-- One step is a run. -/
theorem run_one {s t : State} (h : step s = .next t) : core.run 1 s = .next t := by
  simp [Host.Core.run, core, h]

end Sys2Proof.Laws
end

