-- ==== Sys2Proof/Laws/Host.lean ====
section
/-! SUPPORT. How the host's waits end, and what they leave alone. -/

namespace Sys2Proof.Laws

open Sys2Proof.Machine Sys2Proof.Reference

/-- The host's move is the step's turn. -/
theorem hostMoves_turn {m : Turn} {s t : State} (h : HostMoves m s t) :
    ∃ ts, s.host.turns = m :: ts ∧ turnRun m (s.setTurns ts) = .next t := by
  obtain ⟨hm, hg, hs⟩ := h
  obtain ⟨ts, hts⟩ : ∃ ts, s.host.turns = m :: ts := by
    cases hl : s.host.turns <;> simp_all
  refine ⟨ts, hts, ?_⟩
  unfold step liveStep powerUpStep at hs
  cases hr : s.resetSeen <;> cases m <;> simp_all [turnRun]

/-- A read of STATUS gives the host STATUS, and the job goes on as it did. -/
theorem hostMoves_readStatus {s t : State} (h : HostMoves (.regRead 0x10) s t) :
    t.eng = s.eng ∧ t.host.readData = some s.statusWord := by
  obtain ⟨ts, _, hr⟩ := hostMoves_turn h
  obtain rfl : regRead 0x10 (s.setTurns ts) = t := by simpa [turnRun] using hr
  exact ⟨rfl, rfl⟩

/-- R79: after WAITJOB no job runs. -/
theorem waitJob_ends {ms : List Turn} {s t : State} (h : WaitJob ms s t) : t.busy = false := by
  induction h with
  | stop s t hm hb =>
    obtain ⟨he, hw⟩ := hostMoves_readStatus hm
    have hs : s.statusWord.getLsbD 0 = false := by simpa [hw] using hb
    have hj := (not_congr (statusWord_busy s)).mp (by rw [hs]; decide)
    simpa [State.busy, he] using hj
  | again _ _ _ _ _ _ _ ih => exact ih
  | meanwhile _ _ _ _ _ _ _ ih => exact ih

/-- R79: after DRAIN no job runs and OUT.slot is empty. -/
theorem drain_ends {ms : List Turn} {s t : State} (h : Drain ms s t) : t.busy = false ∧ t.outSlot = none := by
  induction h with
  | stop _ hb ho => exact ⟨hb, ho⟩
  | meanwhile _ _ _ _ _ _ _ _ ih => exact ih

end Sys2Proof.Laws
end

