-- ==== Sys2Proof/Laws/Ops.lean ====
section
/-! SUPPORT. What each shared operation does, said once: the staging registers and the code mask, the two ways a command or a
job fails, the table commands as record updates, the searches, the ends of tokens, a turn of the engine by its guard. -/

namespace Sys2Proof.Laws

open Sys2Proof.Machine

/-! ## Code values -/

/-- The mask keeps the bits below the length (R72). -/
theorem codeMask_getLsbD (len : CodeLen) (v : Code) (i : Nat) :
    (codeMask len v).getLsbD i = (v.getLsbD i && decide (i < len.toNat)) := by
  have hl := len.isLt
  have hm : (((1 : Code) <<< len.toNat) - 1) = BitVec.ofNat 127 (2 ^ len.toNat - 1) := by
    apply BitVec.eq_of_toNat_eq
    rcases Nat.lt_or_ge len.toNat 127 with h | h
    · have h1 : 2 ^ len.toNat < 2 ^ 127 := Nat.pow_lt_pow_right (by omega) h
      have h0 : 0 < 2 ^ len.toNat := Nat.two_pow_pos _
      simp [BitVec.toNat_sub, Nat.shiftLeft_eq]
      norm_num at h1 ⊢
      omega
    · have : len.toNat = 127 := by omega
      rw [this]; decide
  unfold codeMask
  rw [hm]
  simp only [BitVec.getLsbD_and, BitVec.getLsbD_ofNat, Nat.testBit_two_pow_sub_one]
  by_cases hi : i < 127
  · simp [hi]
  · simp [BitVec.getLsbD_of_ge v i (by omega)]

/-- The masked value is the value modulo 2^len (R72). -/
theorem codeMask_toNat (len : CodeLen) (v : Code) : (codeMask len v).toNat = v.toNat % 2 ^ len.toNat := by
  apply Nat.eq_of_testBit_eq
  intro i
  rw [← BitVec.getLsbD, codeMask_getLsbD, Nat.testBit_mod_two_pow, BitVec.getLsbD, Bool.and_comm]

/-- What is written to STAGE_CODE is what it reads (R33). -/
@[simp] theorem stageCode_setStageCode (s : State) (v : BitVec 128) : (s.setStageCode v).stageCode = v := by
  simp only [State.stageCode, setStageCode_entCode0, setStageCode_entCode1, setStageCode_entCode2,
    setStageCode_entCode3]
  apply BitVec.eq_of_getLsbD_eq
  intro i hi
  interval_cases i <;> simp

/-- STAGE_CODE[126:0] (R33). -/
theorem stageCode_low_toNat (s : State) :
    (s.stageCode.extractLsb' 0 127).toNat = s.stageCode.toNat % 2 ^ 127 := by
  simp [BitVec.extractLsb'_toNat]

/-- A character of an open token that is short enough: the value doubled, plus the bit (R154). -/
theorem accumulated_toNat (len : CodeLen) (acc : Code) (b : Byte) (hb : b = 0x30 ∨ b = 0x31) (hl : len.toNat ≠ 127)
    (ha : acc.toNat < 2 ^ len.toNat) :
    ((acc <<< 1) ||| (b - char0).setWidth 127).toNat = 2 * acc.toNat + (b.toNat - 0x30) ∧
      (len + 1).toNat = len.toNat + 1 := by
  have hlt : len.toNat < 128 := len.isLt
  have h2 : 2 ^ len.toNat ≤ 2 ^ 126 := Nat.pow_le_pow_right (by omega) (by omega)
  constructor
  · have hx : (acc <<< 1).toNat = 2 * acc.toNat := by
      rw [BitVec.toNat_shiftLeft, Nat.shiftLeft_eq]; omega
    have ho : ∀ c : BitVec 127, c.toNat < 2 → ((acc <<< 1) ||| c).toNat = 2 * acc.toNat + c.toNat := by
      intro c hc
      rw [BitVec.toNat_or, hx, Nat.mul_comm]
      have := Nat.two_pow_add_eq_or_of_lt (b := c.toNat) (i := 1) (by omega) acc.toNat
      rw [Nat.mul_comm] at this
      simpa using this.symm
    rcases hb with rfl | rfl <;> rw [ho _ (by decide)] <;> rfl
  · rw [BitVec.toNat_add]; simp; omega

/-! ## Errors and ends of jobs -/

/-- An error that ends a running job (R203, R99). -/
theorem jobError_of_running (c : ErrCode) (w : Word) {s : State} (h : s.eng.job ≠ .idle) :
    jobError c w s =
      { s with eng := Engine.cleared, outSlot := none, err := true, errCode := c, errInfo := w } := by
  simp [jobError, h, endJob]

/-! ## Table commands -/

theorem entWrite_eq (k : Sym) (s : State) :
    entWrite k s = { s with
      lut := s.lut.set k.toNat s.stagedEntry k.isLt
      tableCount := if (s.entry k).valid then s.tableCount else s.tableCount + 1 } := by
  unfold entWrite; dsimp only; split <;> rfl

theorem entInval_eq (k : Sym) (s : State) :
    entInval k s = { s with
      lut := s.lut.set k.toNat Entry.invalid k.isLt
      tableCount := if (s.entry k).valid then s.tableCount - 1 else s.tableCount } := by
  unfold entInval; dsimp only; split <;> rfl

/-! ## Searches -/

theorem sameCode_iff (a b : Entry) :
    a.sameCode b = true ↔ a.valid = true ∧ b.valid = true ∧ a.len = b.len ∧ a.code = b.code := by
  simp [Entry.sameCode, and_assoc]

/-- The duplicate search finds nothing exactly on an injective LUT (R115). -/
theorem findDup_none_iff (s : State) : s.findDup = none ↔ s.lut.Injective := by
  unfold State.findDup
  rw [Option.map_eq_none_iff]
  constructor
  · intro h i j hi hj hl hc
    by_contra hne
    have hne' : i.toNat ≠ j.toNat := fun h => hne (BitVec.eq_of_toNat_eq h)
    rcases Nat.lt_or_gt_of_ne hne' with hlt | hlt
    · have := firstPair_none h _ _ _ _ hlt (lut_toList_getElem? s.lut i) (lut_toList_getElem? s.lut j)
      simp [(sameCode_iff _ _).mpr ⟨hi, hj, hl, hc⟩] at this
    · have := firstPair_none h _ _ _ _ hlt (lut_toList_getElem? s.lut j) (lut_toList_getElem? s.lut i)
      simp [(sameCode_iff _ _).mpr ⟨hj, hi, hl.symm, hc.symm⟩] at this
  · intro h
    cases hp : firstPair s.lut.toList 0 with
    | none => rfl
    | some p =>
      obtain ⟨m, n, h1, h2, x, y, hmn, hx, hy, hs, -⟩ := firstPair_some (i := p.1) (j := p.2) hp
      obtain ⟨hm, rfl⟩ := lutAt_of_getElem? hx
      obtain ⟨hn, rfl⟩ := lutAt_of_getElem? hy
      obtain ⟨a, b, c, d⟩ := (sameCode_iff _ _).mp hs
      have := congrArg BitVec.toNat (h (BitVec.ofNat 7 m) (BitVec.ofNat 7 n) a b c d)
      simp at this; omega

/-- What the match search finds is a valid row of that length and value (R160). -/
theorem matchCode_some {s : State} {len : CodeLen} {v : Code} {k : Sym} (h : s.matchCode len v = some k) :
    (s.entry k).valid = true ∧ (s.entry k).len = len ∧ (s.entry k).code = v := by
  obtain ⟨j, hj, rfl⟩ := Option.map_eq_some_iff.mp h
  obtain ⟨n, e, rfl, he, hr⟩ := firstMatch_some hj
  obtain ⟨-, rfl⟩ := lutAt_of_getElem? he
  simpa [State.entry] using hr

/-- Where the match search finds nothing there is no such row (R160). -/
theorem matchCode_none {s : State} {len : CodeLen} {v : Code} (h : s.matchCode len v = none) (k : Sym) :
    ¬((s.entry k).valid = true ∧ (s.entry k).len = len ∧ (s.entry k).code = v) :=
  firstMatch_none (Option.map_eq_none_iff.mp h) _ (List.mem_of_getElem? (lut_toList_getElem? s.lut k))

/-- Where TABLE_COUNT counts the valid rows, the degenerate symbol is that of R152. -/
theorem degenerateSym_iff {s : State} (h : s.tableCount.toNat = (validSyms s.lut).length) (k : Sym) :
    s.degenerateSym = some k ↔ s.lut.DegenerateAt k := by
  unfold State.degenerateSym Lut.DegenerateAt
  constructor
  · intro hh
    split at hh <;> try simp at hh
    rename_i htc
    have hl : (validSyms s.lut).length = 1 := by rw [← h, htc]; rfl
    split at hh <;> try simp at hh
    rename_i i e he
    obtain ⟨hlen, hk⟩ := hh
    obtain ⟨n, rfl, hx, hv⟩ := firstValid_some he
    obtain ⟨hn, hx⟩ := lutAt_of_getElem? hx
    simp at hk
    rw [hk] at hx
    obtain ⟨a, ha⟩ := List.length_eq_one_iff.mp hl
    have : k ∈ validSyms s.lut := by simp [hx, hv]
    rw [ha] at this
    simp at this
    subst this
    exact ⟨ha, by rw [hx]; exact hlen⟩
  · rintro ⟨h1, h2⟩
    have htc : s.tableCount = 1 := by apply BitVec.eq_of_toNat_eq; rw [h, h1]; rfl
    rw [if_pos htc]
    have hkv : (lutAt s.lut k).valid = true := by rw [← mem_validSyms, h1]; simp
    cases hf : firstValid s.lut.toList 0 with
    | none =>
      have := firstValid_none hf _ (List.mem_of_getElem? (lut_toList_getElem? s.lut k))
      simp [this] at hkv
    | some p =>
      obtain ⟨n, h3, hx, hv⟩ := firstValid_some (j := p.1) (e := p.2) hf
      obtain ⟨hn, hx⟩ := lutAt_of_getElem? hx
      have : BitVec.ofNat 7 n ∈ validSyms s.lut := by simp [hx, hv]
      rw [h1] at this
      simp at this
      rw [this] at hx
      have h4 : p = (n, lutAt s.lut k) := by rw [hx]; ext <;> simp [h3]
      subst h4
      simp [h2, this]

/-! ## Tokens -/

/-- The whitespace bytes (R151). -/
theorem isWhitespace_iff (b : Byte) :
    isWhitespace b = true ↔ b.toNat ∈ [0x09, 0x0A, 0x0B, 0x0C, 0x0D, 0x20] := by
  revert b
  decide

/-- A token that ends: a dead one is skipped, a live one is emitted or skipped by the match (R154, R161). -/
theorem endToken_cases (s : State) :
    (∃ k, s.eng.decDead = false ∧ s.matchCode s.eng.decLen s.eng.decAcc = some k ∧
      endToken s = { s with outSlot := some (k.setWidth 8), eng := s.eng.noToken }) ∨
    ((s.eng.decDead = true ∨ s.matchCode s.eng.decLen s.eng.decAcc = none) ∧
      endToken s = { s with skipCount := s.skipCount + 1, eng := s.eng.noToken }) := by
  cases hd : s.eng.decDead with
  | true => exact .inr ⟨.inl rfl, by simp [endToken, hd]⟩
  | false =>
    cases hm : s.matchCode s.eng.decLen s.eng.decAcc with
    | none => exact .inr ⟨.inr rfl, by simp [endToken, hd, hm]⟩
    | some k => exact .inl ⟨k, rfl, rfl, by simp [endToken, hd, hm, State.putOut]⟩

/-! ## Turns -/

/-- Guards do not read the moves still to come. -/
@[simp] theorem engineGuard_setTurns (e : EngineStep) (s : State) (ts : List Turn) :
    engineGuard e (s.setTurns ts) = engineGuard e s := by
  cases e <;> rfl

/-- A turn of the engine runs the step whose guard holds (R103). -/
theorem engineTurn_of_guard {s : State} {e : EngineStep} (h : engineGuard e s = true) :
    engineTurn s = engineRun e s := by
  rcases engineTurn_cases s with ⟨e', h', he⟩ | ⟨hn, -⟩
  · have : e = e' := by
      cases e <;> cases e' <;> simp_all [engineGuard, encConsumeGuard, encEmitCharGuard, encEmitDelimGuard,
        encFinishGuard, decConsumeGuard, decFlushGuard, decFinishGuard]
    rw [this, he]
  · simp [hn e] at h

/-- A turn whose guard holds, as the next move after reset, is the step (R103). -/
theorem step_of_turn {s : State} {m : Turn} {ts : List Turn} (h : s.resetSeen = true)
    (hm : s.host.turns = m :: ts) (hg : turnGuard m s = true) : step s = turnRun m (s.setTurns ts) := by
  simp [step, h, liveStep, hm, hg]

/-- With no move to come the engine moves (log 1). -/
theorem step_of_no_turn {s : State} (h : s.resetSeen = true) (hm : s.host.turns = []) :
    step s = .next (engineTurn s) := by
  simp [step, h, liveStep, hm]

/-- Everything a step can do, as an induction: what holds after each of these holds after the step (R103). -/
theorem step_induction {s t : State} (h : step s = .next t) (P : State → Prop)
    (reset : ResetIsNext s → ∀ ts, P (platformReset (s.setTurns ts)))
    (engine : ∀ ts e, EngineTakes e s (engineRun e (s.setTurns ts)) → P (engineRun e (s.setTurns ts)))
    (wait : ∀ ts, P (s.setTurns ts))
    (read : ∀ ts off, P (regRead off (s.setTurns ts)))
    (write : ∀ ts off w, s.host.turns = .regWrite off w :: ts → regOfOffset off ≠ .cmd →
      P (writeReg (regOfOffset off) w (s.setTurns ts)))
    (reject : ∀ ts why, RejectIsNext s → P (cmdError (illegalCause why) (s.setTurns ts)))
    (command : ∀ ts i u, CommandIsNext i s → exec i (s.setTurns ts) = .next u → P u)
    (offer : ∀ ts b, s.inSlot = none → P (hostOffer b (s.setTurns ts)))
    (take : ∀ ts, P (hostTake (s.setTurns ts))) : P t := by
  have turn : ∀ ts, (ts = s.host.turns ∨ s.host.turns = .engine :: ts) → P (engineTurn (s.setTurns ts)) := by
    intro ts hts
    rcases engineTurn_cases (s.setTurns ts) with ⟨e, hg, he⟩ | ⟨_, he⟩ <;> rw [he]
    · exact engine ts e ⟨by simpa using hg, ts, hts, rfl⟩
    · exact wait ts
  rcases step_cases h with ⟨_, ts, hts, rfl⟩ | ⟨_, rfl⟩ | ⟨_, m, ts, hts, hg, hr⟩
  · exact reset ⟨ts, hts⟩ ts
  · exact turn s.host.turns (.inl rfl)
  · rcases turnRun_cases hr with ⟨off, rfl, rfl⟩ | ⟨off, w, rfl, hc, rfl⟩ | ⟨off, w, why, rfl, hc, hd, rfl⟩ |
      ⟨off, w, i, rfl, hc, hd, he⟩ | ⟨b, rfl, rfl⟩ | ⟨rfl, rfl⟩ | ⟨rfl, rfl⟩ | ⟨rfl, rfl⟩
    · exact read ts off
    · exact write ts off w hts hc
    · exact reject ts why ⟨off, w, ts, hts, (regOfOffset_eq_cmd off).mp hc, .inl ⟨why, hd⟩⟩
    · exact command ts i t ⟨off, w, ts, hts, (regOfOffset_eq_cmd off).mp hc, hd⟩ he
    · exact offer ts b (by simpa [turnGuard] using hg)
    · exact take ts
    · exact reset ⟨ts, hts⟩ ts
    · exact turn ts (.inr hts)

/-! ## What no engine step, register write or take changes -/

/-- An engine step leaves the LUT, TABLE_COUNT, ENT_LEN.VALID, CMD_ERR and the host's side alone. -/
theorem engineRun_frame (e : EngineStep) (s : State) :
    (engineRun e s).lut = s.lut ∧ (engineRun e s).tableCount = s.tableCount ∧
      (engineRun e s).entValid = s.entValid ∧ (engineRun e s).cmdErr = s.cmdErr ∧ (engineRun e s).host = s.host := by
  have error : ∀ c w (s : State), (jobError c w s).lut = s.lut ∧ (jobError c w s).tableCount = s.tableCount ∧
      (jobError c w s).entValid = s.entValid ∧ (jobError c w s).cmdErr = s.cmdErr ∧
      (jobError c w s).host = s.host := by
    intro c w s; unfold jobError; split <;> exact ⟨rfl, rfl, rfl, rfl, rfl⟩
  have token : ∀ s : State, (endToken s).lut = s.lut ∧ (endToken s).tableCount = s.tableCount ∧
      (endToken s).entValid = s.entValid ∧ (endToken s).cmdErr = s.cmdErr ∧ (endToken s).host = s.host := by
    intro s
    rcases endToken_cases s with ⟨k, _, _, h⟩ | ⟨_, h⟩ <;> rw [h] <;> exact ⟨rfl, rfl, rfl, rfl, rfl⟩
  cases e with
  | encConsume =>
    simp only [engineRun, encConsume]
    split
    · unfold encConsumeByte
      dsimp only
      split
      · exact error _ _ _
      · split
        · exact ⟨rfl, rfl, rfl, rfl, rfl⟩
        · exact error _ _ _
    · exact ⟨rfl, rfl, rfl, rfl, rfl⟩
  | decConsume =>
    simp only [engineRun, decConsume]
    split
    · unfold decConsumeByte emitDegenerate endOpenToken
      split <;> (try split) <;> (try split) <;>
        first | exact ⟨rfl, rfl, rfl, rfl, rfl⟩ | exact token (State.countByte s)
    · exact ⟨rfl, rfl, rfl, rfl, rfl⟩
  | decFlush => exact token s
  | encEmitChar | encEmitDelim | encFinish | decFinish => exact ⟨rfl, rfl, rfl, rfl, rfl⟩

/-- A register write other than CMD leaves the LUT, TABLE_COUNT, ENT_LEN.VALID and the engine alone. -/
theorem writeReg_frame (r : Reg) (w : Word) (s : State) :
    (writeReg r w s).lut = s.lut ∧ (writeReg r w s).tableCount = s.tableCount ∧
      (writeReg r w s).entValid = s.entValid ∧ (writeReg r w s).eng = s.eng := by
  cases r <;> simp only [writeReg, writeStatus, ackCmdErr, ackErr, ackDone] <;>
    (try split) <;> (try split) <;> (try split) <;> simp

/-- A take empties OUT.slot, counts the byte and hands it to the host; with no byte held it is nothing (R95). -/
theorem hostTake_cases (s : State) :
    (∃ b, s.outSlot = some b ∧ hostTake s = { s with
      outSlot := none, outCount := s.outCount + 1, host := { s.host with taken := s.host.taken ++ [b] } }) ∨
    (s.outSlot = none ∧ hostTake s = s) := by
  unfold hostTake
  split
  · rename_i b hb
    exact .inl ⟨b, hb, rfl⟩
  · rename_i hb
    exact .inr ⟨hb, rfl⟩

/-- A command leaves the LUT and TABLE_COUNT alone, unless it is one of the three that write rows, no job running (R38). -/
theorem exec_lut_cases {i : Instr} {s t : State} (h : exec i s = .next t) :
    (t.lut = s.lut ∧ t.tableCount = s.tableCount) ∨
    (s.eng.job = .idle ∧
      ((∃ k, i = .entWrite k ∧ t = entWrite k s) ∨ (∃ k, i = .entInval k ∧ t = entInval k s) ∨
        (i = .tblClear ∧ t = tblClear s))) := by
  by_cases hj : s.eng.job = .idle
  · cases i <;> simp only [exec, execNop, execTblClear, execEntWrite, execEntRead, execEntInval, execTblCheck,
      execEncStart, execDecStart, execAbort, whenIdle_of_idle _ hj, Host.Outcome.next.injEq] at h <;> subst h
    · simp
    · exact .inr ⟨hj, by simp⟩
    · exact .inr ⟨hj, by simp⟩
    · left; unfold entRead; dsimp only; split <;> exact ⟨rfl, rfl⟩
    · exact .inr ⟨hj, by simp⟩
    · left; unfold tblCheck jobError; dsimp only; split <;> (try split) <;> exact ⟨rfl, rfl⟩
    · left; unfold encStart jobError; dsimp only; split <;> (try split) <;> exact ⟨rfl, rfl⟩
    · left; unfold decStart jobError decBegin; dsimp only; split <;> (try split) <;> exact ⟨rfl, rfl⟩
    · left; unfold abort jobError; split <;> exact ⟨rfl, rfl⟩
  · left
    cases i <;> simp only [exec, execNop, execTblClear, execEntWrite, execEntRead, execEntInval, execTblCheck,
      execEncStart, execDecStart, execAbort, whenIdle_of_busy _ hj, Host.Outcome.next.injEq] at h <;> subst h
    all_goals first
      | exact ⟨rfl, rfl⟩
      | (unfold abort jobError; split <;> exact ⟨rfl, rfl⟩)

end Sys2Proof.Laws
end

