-- ==== Sys2Proof/Laws/PerInstr.lean ====
section
/-! SUPPORT. What is said of every command as syntax: its fields are well-formed (R71, R73, R74). -/

namespace Sys2Proof.Laws.FieldsWellFormed

/-- The fields of the command pass the checks of WellFormed. -/
def Statement (i : Instr) : Prop :=
  i.fields.wf = true

theorem nop : Statement .nop := by unfold Statement; decide
theorem tblClear : Statement .tblClear := by unfold Statement; decide
theorem entWrite (sym : Sym) : Statement (.entWrite sym) := rfl
theorem entRead (sym : Sym) : Statement (.entRead sym) := rfl
theorem entInval (sym : Sym) : Statement (.entInval sym) := rfl
theorem tblCheck : Statement .tblCheck := by unfold Statement; decide
theorem encStart : Statement .encStart := by unfold Statement; decide
theorem decStart : Statement .decStart := by unfold Statement; decide
theorem abort : Statement .abort := by unfold Statement; decide

end Sys2Proof.Laws.FieldsWellFormed
end

