-- ==== Sys2Proof/Laws/Words.lean ====
section
/-! SUPPORT. Format C: its fields and its word determine each other (R71). -/

namespace Sys2Proof.Laws

/-- The fields of an assembled word are the fields it was assembled from. -/
@[simp] theorem fieldsOfWord_word (f : FormatC) : fieldsOfWord f.word = f := by
  rcases f with ⟨op, r0, sy, r1⟩
  simp only [fieldsOfWord, FormatC.word, FormatC.mk.injEq]
  refine ⟨?_, ?_, ?_, ?_⟩ <;>
    · apply BitVec.eq_of_getLsbD_eq
      intro j hj
      interval_cases j <;> simp

/-- A word is assembled from its fields: no bit is dropped. -/
@[simp] theorem word_fieldsOfWord (w : Word) : (fieldsOfWord w).word = w := by
  simp only [fieldsOfWord, FormatC.word]
  apply BitVec.eq_of_getLsbD_eq
  intro j hj
  interval_cases j <;> simp

end Sys2Proof.Laws
end

