-- ==== Sys2Proof/Tests/Slice0.lean ====
section
/-! SUPPORT. Tests: words the checks refuse, words written out bit by bit from the spec's encoding, one small step per command
and engine step with the results of 95_test_vectors.md, and for every obligation with hypotheses a state that meets them. -/

namespace Sys2Proof.Tests

-- Checked one after another: the kernel evaluates many of these, and every check waiting for it holds a thread.
set_option Elab.async false

open Sys2Proof.Machine Sys2Proof.Laws Sys2Proof.Reference

/-! ## Helpers -/

/-- The state after one step; the state itself where the step is refused. -/
def after (s : State) : State :=
  match step s with
  | .next t => t
  | _ => s

/-- The state `exec` answers; the state itself where it answers none. -/
def resultOf (i : Instr) (s : State) : State :=
  match exec i s with
  | .next t => t
  | _ => s

/-- Every step after reset answers a next state. -/
theorem step_after {s : State} (h : s.resetSeen = true) : step s = .next (after s) := by
  have live : ∃ t, step s = .next t := by
    unfold step
    rw [if_pos h]
    unfold liveStep
    split
    · exact ⟨_, rfl⟩
    · rename_i m ts _
      split
      · cases m with
        | regWrite off w =>
          simp only [turnRun, regWrite, dispatch]
          split
          · split
            · exact ⟨_, rfl⟩
            · rename_i i _
              cases i <;> exact ⟨_, rfl⟩
          · exact ⟨_, rfl⟩
        | _ => exact ⟨_, rfl⟩
      · exact ⟨_, rfl⟩
  obtain ⟨t, ht⟩ := live
  unfold after
  rw [ht]

/-- A valid row. -/
def row (len : CodeLen) (code : Code) : Entry := { valid := true, len := len, code := code }

/-- A LUT with one valid row, of symbol 'a' (0x61), whose code is `len` characters '0'. -/
def oneLut (len : CodeLen) : Lut := Lut.empty.set (0x61#7).toNat (row len 0) (0x61#7).isLt

/-- A LUT with two rows that share the code "0". -/
def dupLut : Lut := (oneLut 1).set (0x62#7).toNat (row 1 0) (0x62#7).isLt

/-- The table of V-S1: a = "0", b = "10", c = "11". -/
def abcLut : Lut := lutOf [(0x61, [false]), (0x62, [true, false]), (0x63, [true, true])]

/-- Idle, the LUT given, the moves given. -/
def idle (lut : Lut) (count : BitVec 8) (ts : List Turn) : State :=
  { State.reset with lut := lut, tableCount := count, host := { turns := ts, readData := none, taken := [] } }

/-- An encode job of `n` bytes just started on a LUT with one row, a byte offered or not. -/
def encoding (len : CodeLen) (n : Word) (b : Option Byte) (ts : List Turn) : State :=
  { idle (oneLut len) 1 ts with
    inLen := n, jobKind := .encode, inSlot := b, eng := { Engine.cleared with job := .enc, remaining := n } }

/-- A decode job of `n` bytes just started on a LUT with one row, a byte offered or not. -/
def decoding (len : CodeLen) (n : Word) (b : Option Byte) (ts : List Turn) : State :=
  { idle (oneLut len) 1 ts with
    inLen := n, jobKind := .decode, inSlot := b, statusDegen := len == 0
    eng := { Engine.cleared with
      job := .dec, remaining := n, degen := len == 0, degSym := if len = 0 then 0x61 else 0 } }

/-- The decode job with a token open. -/
def token (len : CodeLen) (n : Word) (b : Option Byte) (dead : Bool) (tokLen : CodeLen) : State :=
  let s := decoding len n b []
  { s with eng := { s.eng with decIntok := true, decDead := dead, decLen := tokLen } }

/-- The encode job with the symbol 'a' being serialized. -/
def serializing (len : CodeLen) (pos : BitVec 8) : State :=
  let s := encoding len 0 none []
  { s with eng := { s.eng with encActive := true, encSym := 0x61, encPos := pos } }

/-! ## WellFormed: an ill-formed term for each check (R74) -/

theorem test_wf_refuses_illegal_op : FormatC.wf { op := 0x7, rsv0 := 0, sym := 0, rsv1 := 0 } = false := by decide
theorem test_wf_refuses_rsv0 : FormatC.wf { op := 0x2, rsv0 := 1, sym := 0x41, rsv1 := 0 } = false := by decide
theorem test_wf_refuses_rsv1 : FormatC.wf { op := 0x2, rsv0 := 0, sym := 0x41, rsv1 := 1 } = false := by decide
theorem test_wf_refuses_sym_of_plain_op : FormatC.wf { op := 0x8, rsv0 := 0, sym := 1, rsv1 := 0 } = false := by decide
theorem test_wf_accepts_sym_operand : FormatC.wf { op := 0x2, rsv0 := 0, sym := 0x7F, rsv1 := 0 } = true := by decide

/-! ## Decode: every constructor's word, bit by bit: RSV1 (17 bits), SYM (7), RSV0 (4), OP (4) (R71, R73) -/

theorem test_decode_nop : decode 0b00000000000000000_0000000_0000_0000 = .command .nop := by decide
theorem test_decode_tblClear : decode 0b00000000000000000_0000000_0000_0001 = .command .tblClear := by decide
theorem test_decode_entWrite : decode 0b00000000000000000_1100010_0000_0010 = .command (.entWrite 0x62) := by decide
theorem test_decode_entRead : decode 0b00000000000000000_1111111_0000_0011 = .command (.entRead 127) := by decide
theorem test_decode_entInval : decode 0b00000000000000000_0000001_0000_0100 = .command (.entInval 1) := by decide
theorem test_decode_tblCheck : decode 0b00000000000000000_0000000_0000_0101 = .command .tblCheck := by decide
theorem test_decode_encStart : decode 0b00000000000000000_0000000_0000_1000 = .command .encStart := by decide
theorem test_decode_decStart : decode 0b00000000000000000_0000000_0000_1001 = .command .decStart := by decide
theorem test_decode_abort : decode 0b00000000000000000_0000000_0000_1111 = .command .abort := by decide

theorem test_decode_op_before_reserved : decode 0b00000000000000000_0000000_0001_0110 = .illegal .illegalOp := by decide
theorem test_decode_rsv1_bit : decode 0b10000000000000000_0000000_0000_0010 = .illegal .reservedBits := by decide

theorem test_decodeTableWord : decodeTableWord 32 0x6202 = some (.entWrite 0x62) ∧ decodeTableWord 32 0x6 = none := by
  decide

theorem test_fetched_word_runs :
    (after (State.reset.withFetchWord 32 0x00007F02)).tableCount = 1 ∧
    ((after (State.reset.withFetchWord 32 0x00007F02)).entry 0x7F).valid = true := by decide +kernel

/-! ## Commands, one step each -/

/-- V-R12. -/
theorem test_nop : (resultOf .nop (idle abcLut 3 [])).statusWord = 0 := by decide

/-- V-T13. -/
theorem test_tblClear :
    (resultOf .tblClear (idle abcLut 3 [])).tableCount = 0 ∧
    ((resultOf .tblClear (idle abcLut 3 [])).entry 0x62).valid = false := by decide +kernel

/-- V-T3: bit 2 of the staged value is dropped. -/
theorem test_entWrite_masks :
    (resultOf (.entWrite 0x61) { State.reset with entLen := 2, entCode0 := 7 }).entry 0x61 = row 2 3 := by decide +kernel

/-- V-T5: bit 127 of STAGE_CODE is not stored. -/
theorem test_entWrite_longest :
    (resultOf (.entWrite 0x41) { State.reset with
      entLen := 127, entCode0 := 0xFFFFFFFF, entCode1 := 0xFFFFFFFF, entCode2 := 0xFFFFFFFF
      entCode3 := 0xFFFFFFFF }).entry 0x41 = row 127 (BitVec.allOnes 127) := by decide +kernel

/-- V-T2. -/
theorem test_entRead_valid :
    (resultOf (.entRead 0x62) (idle abcLut 3 [])).entLenWord = 0x80000002 ∧
    (resultOf (.entRead 0x62) (idle abcLut 3 [])).entCode0 = 2 := by decide +kernel

/-- V-T4. -/
theorem test_entRead_invalid :
    (resultOf (.entRead 0x64) { idle abcLut 3 [] with entLen := 5, entCode0 := 9 }).entLenWord = 0 ∧
    (resultOf (.entRead 0x64) { idle abcLut 3 [] with entLen := 5, entCode0 := 9 }).entCode0 = 0 := by decide +kernel

/-- V-T11. -/
theorem test_entInval :
    (resultOf (.entInval 0x63) (idle abcLut 3 [])).tableCount = 2 ∧
    (resultOf (.entInval 0x64) (idle abcLut 3 [])).tableCount = 3 := by decide +kernel

/-- V-T6, with the codes (1, 0): the first pair is ('a', 'b'). -/
theorem test_tblCheck_duplicate :
    (resultOf .tblCheck (idle dupLut 2 [])).statusWord = 0x344 ∧
    (resultOf .tblCheck (idle dupLut 2 [])).errInfo = 0x6261 := by decide +kernel

/-- V-T10. -/
theorem test_tblCheck_empty : (resultOf .tblCheck State.reset).statusWord = 0x302 := by decide +kernel

/-- V-E1. -/
theorem test_encStart : (resultOf .encStart { idle abcLut 3 [] with inLen := 6 }).statusWord = 0x101 := by decide +kernel

/-- V-E10. -/
theorem test_encStart_empty :
    (resultOf .encStart State.reset).statusWord = 0x124 ∧ (resultOf .encStart State.reset).errInfo = 3 := by decide +kernel

/-- V-D10, the symbol 'a' instead of 'z'. -/
theorem test_decStart_degenerate :
    (resultOf .decStart { idle (oneLut 0) 1 [] with inLen := 4 }).statusWord = 0x601 := by decide +kernel

/-- V-D15, with the codes (1, 0). -/
theorem test_decStart_duplicate :
    (resultOf .decStart { idle dupLut 2 [] with inLen := 3 }).statusWord = 0x244 ∧
    (resultOf .decStart { idle dupLut 2 [] with inLen := 3 }).errInfo = 0x6261 := by decide +kernel

/-- V-R15. -/
theorem test_abort_busy : (resultOf .abort (encoding 1 3 none [])).statusWord = 0x154 := by decide +kernel

/-- V-C9. -/
theorem test_busy_rejects : (resultOf (.entWrite 0x64) (encoding 1 3 none [])).statusWord = 0x3109 := by decide +kernel

/-! ## Ports, reset and the engine, one step each -/

/-- V-R4, V-R6 (offset bits [1:0] do not matter). -/
theorem test_ctrl_write : (after (idle abcLut 3 [.regWrite 0x0B 0xFFFFFFFF])).readReg .ctrl = 7 := by decide +kernel

/-- V-R7. -/
theorem test_w1c_err :
    (after { idle abcLut 3 [.regWrite 0x10 4] with
      err := true, errCode := .missingCode, jobKind := .encode, errInfo := 0x64 }).statusWord = 0x100 := by
  decide +kernel

/-- V-R10. -/
theorem test_take :
    (after { encoding 1 1 none [.take] with outSlot := some 0x30 }).outCount = 1 ∧
    (after { encoding 1 1 none [.take] with outSlot := some 0x30 }).host.taken = [0x30] := by decide +kernel

/-- V-R11. -/
theorem test_reset_keeps_the_offered_byte :
    (after { encoding 1 1 (some 0x62) [.reset] with outSlot := some 0x20 }).inSlot = some 0x62 ∧
    (after { encoding 1 1 (some 0x62) [.reset] with outSlot := some 0x20 }).outSlot = none := by decide +kernel

/-- V-E5: INPUT_RANGE, the byte 0xE1. -/
theorem test_encConsume_range :
    (after (encoding 1 1 (some 0xE1) [])).statusWord = 0x114 ∧ (after (encoding 1 1 (some 0xE1) [])).errInfo = 0xE1 := by
  decide +kernel

/-- R134's example: the code "10" of 'b', character 0. -/
theorem test_encEmitChar :
    (after { serializing 1 0 with lut := (oneLut 1).set 0x61 (row 2 0b10) }).outSlot = some 0x31 := by decide +kernel

/-- R135. -/
theorem test_encEmitDelim : (after (serializing 1 1)).outSlot = some 0x20 := by decide +kernel

/-- R136. -/
theorem test_encFinish : (after (encoding 1 0 none [])).statusWord = 0x102 := by decide +kernel

/-- V-D1's first token "0": its space emits 'a'. -/
theorem test_decConsume_match : (after (token 1 1 (some 0x20) false 1)).outSlot = some 0x61 := by decide +kernel

/-- V-D16: the byte 0x00 is a token byte and makes the token dead. -/
theorem test_decConsume_dead : (after (token 1 1 (some 0x00) false 1)).eng.decDead = true := by decide +kernel

/-- V-D2: the end of the input ends the token. -/
theorem test_decFlush : (after (token 1 0 none false 1)).outSlot = some 0x61 := by decide +kernel

/-- V-D6. -/
theorem test_decFinish : (after (decoding 1 0 none [])).statusWord = 0x202 := by decide +kernel

/-! ## Witnesses: states that meet the invariants -/

/-- A LUT with no row but that of 'a'. -/
theorem lutAt_oneLut (len : CodeLen) (k : Sym) :
    lutAt (oneLut len) k = if k = 0x61 then row len 0 else Entry.invalid := by
  unfold oneLut
  rw [lutAt_set]
  simp

theorem validSyms_oneLut (len : CodeLen) : validSyms (oneLut len) = [0x61] := by
  have h : (fun k : Sym => (lutAt (oneLut len) k).valid) = fun k => decide (k = 0x61) := by
    funext k
    rw [lutAt_oneLut]
    by_cases hk : k = 0x61
    · subst hk; rfl
    · rw [if_neg hk, decide_eq_false hk]; rfl
  unfold validSyms
  rw [h]
  decide +kernel

theorem oneLut_injective (len : CodeLen) : (oneLut len).Injective := by
  intro i j hi hj _ _
  have valid : ∀ k : Sym, (lutAt (oneLut len) k).valid = true → k = 0x61 := by
    intro k hk
    have := (mem_validSyms (oneLut len) k).mpr hk
    simpa [validSyms_oneLut] using this
  rw [valid i hi, valid j hj]

theorem oneLut_degenerate (len : CodeLen) (k : Sym) : (oneLut len).DegenerateAt k ↔ k = 0x61 ∧ len = 0 := by
  unfold Lut.DegenerateAt
  rw [validSyms_oneLut, lutAt_oneLut]
  constructor
  · rintro ⟨h, hl⟩
    have hk : k = 0x61 := by simpa using h.symm
    rw [if_pos hk] at hl
    exact ⟨hk, hl⟩
  · rintro ⟨rfl, rfl⟩
    exact ⟨rfl, rfl⟩

/-- A state on a LUT with one row meets the invariants where its flags and its engine do. -/
theorem inv_oneLut {s : State} (len : CodeLen) (hlut : s.lut = oneLut len) (hcount : s.tableCount = 1)
    (hout : s.outSlot ≠ none → s.eng.job ≠ .idle) (hdone : s.done = false) (herr : s.err = false)
    (hcode : s.errCode = .noError) (hcause : s.cmdCause = .noCause)
    (henc : s.eng.encActive = true → s.eng.job = .enc ∧ s.eng.encSym = 0x61 ∧ s.eng.encPos.toNat ≤ len.toNat)
    (hidle : s.eng.job = .idle → s.eng = Engine.cleared)
    (hdegen : s.eng.job = .dec → (s.eng.degen = true ↔ len = 0) ∧ (len = 0 → s.eng.degSym = 0x61))
    (hdec : s.eng.degen = true → s.eng.job = .dec)
    (hlive : s.eng.decIntok = true → s.eng.decDead = false →
      1 ≤ s.eng.decLen.toNat ∧ s.eng.decAcc.toNat < 2 ^ s.eng.decLen.toNat)
    (hfit : s.eng.job ≠ .idle → s.inCount.toNat + s.eng.remaining.toNat < 2 ^ 32)
    (htok : s.eng.decIntok = true → s.eng.job = .dec) : s.Inv := by
  have entry : ∀ k, s.entry k = if k = 0x61 then row len 0 else Entry.invalid := by
    intro k; unfold State.entry; rw [hlut, lutAt_oneLut]
  refine ⟨⟨?_, statusWord_busy s, hout, ?_, fun _ => hcode, fun _ => hcause, ?_, ?_, ?_⟩, hidle, fun _ => ⟨hdone, herr⟩,
    ?_, ?_, hdec, hlive, hfit, htok, ?_⟩
  · rw [hcount, hlut, validSyms_oneLut]; rfl
  · simp [hdone]
  · intro k i _
    rw [entry]
    split <;> simp [row, Entry.invalid]
  · intro h
    obtain ⟨hj, hsym, hpos⟩ := henc h
    have : s.encEntry = row len 0 := by rw [State.encEntry, hsym, entry, if_pos rfl]
    rw [this]
    exact ⟨hj, rfl, hpos⟩
  · intro h
    simp [hidle h]
  · intro _; rw [hlut]; exact oneLut_injective len
  · intro hj k
    rw [hlut, oneLut_degenerate]
    obtain ⟨h1, h2⟩ := hdegen hj
    constructor
    · rintro ⟨hd, hk⟩
      exact ⟨by rw [← hk]; exact h2 (h1.mp hd), h1.mp hd⟩
    · rintro ⟨rfl, hl⟩
      exact ⟨h1.mpr hl, h2 hl⟩
  · intro k h
    rw [entry] at h ⊢
    split at h
    · simp [row] at h
    · rename_i hk; rw [if_neg hk]

/-- An encode job that has just started meets the invariants. -/
theorem inv_encoding (len : CodeLen) (n : Word) (b : Option Byte) (ts : List Turn) : (encoding len n b ts).Inv := by
  have := n.isLt
  apply inv_oneLut len <;> simp [encoding, idle, State.reset]
  omega

/-- A decode job that has just started meets the invariants. -/
theorem inv_decoding (len : CodeLen) (n : Word) (b : Option Byte) (ts : List Turn) : (decoding len n b ts).Inv := by
  have := n.isLt
  apply inv_oneLut len <;> simp [decoding, idle, State.reset]
  omega

/-- A decode job with an open token, dead or "0", meets the invariants. -/
theorem inv_token (len : CodeLen) (n : Word) (b : Option Byte) (dead : Bool) (tokLen : CodeLen)
    (h : dead = false → 1 ≤ tokLen.toNat) : (token len n b dead tokLen).Inv := by
  have := n.isLt
  apply inv_oneLut len <;> simp [token, decoding, idle, State.reset]
  · exact fun hd => ⟨h hd, Nat.two_pow_pos _⟩
  · omega

/-- With no job and a LUT of one row the state meets the invariants. -/
theorem inv_idle (len : CodeLen) (ts : List Turn) : (idle (oneLut len) 1 ts).Inv := by
  apply inv_oneLut len <;> simp [idle, State.reset]

/-- Reset state with moves to come, no row valid. -/
theorem inv_dupLut : (idle dupLut 2 []).Inv := by
  have entry : ∀ k, lutAt dupLut k = if k = 0x62 then row 1 0 else if k = 0x61 then row 1 0 else Entry.invalid := by
    intro k
    unfold dupLut
    rw [lutAt_set, lutAt_oneLut]
    rfl
  have none : ∀ k, lutAt dupLut k = row 1 0 ∨ lutAt dupLut k = Entry.invalid := by
    intro k
    rw [entry]
    split <;> (try split) <;> simp
  refine ⟨⟨by decide +kernel, statusWord_busy _, ?_, ?_, ?_, ?_, ?_, ?_, ?_⟩, ?_, ?_, ?_, ?_, ?_, ?_, ?_, ?_, ?_⟩ <;>
    try simp [idle, State.reset]
  · intro k i _
    rcases none k with h | h <;> simp [State.entry, h, row, Entry.invalid]
  · intro k hk
    rcases none k with h | h
    · simp [State.entry, h, row] at hk
    · exact h

theorem dupLut_not_injective : ¬ dupLut.Injective := by
  intro h
  have := h 0x61 0x62 (by decide +kernel) (by decide +kernel) (by decide +kernel) (by decide +kernel)
  exact absurd this (by decide)

/-! ## Witnesses: for each obligation with hypotheses, a state and operands that meet them, clause by clause -/

theorem witness_DecodeAcceptsExactlyTheEncodings : decode 0x00007F04 = .command (.entInval 0x7F) := by decide

/-- Offset 0x0F is CMD too. -/
theorem witness_StepRunsTheDecodedCommand :
    (idle (oneLut 1) 1 [.regWrite 0x0F 0x7F02]).resetSeen = true ∧
    (idle (oneLut 1) 1 [.regWrite 0x0F 0x7F02]).host.turns = [.regWrite 0x0F 0x7F02] ∧
    (0x0F#6).extractLsb' 2 4 = 3 ∧ decode 0x7F02 = .command (.entWrite 0x7F) := by decide +kernel

/-- The four clauses: an illegal OP, reserved bits, a command while BUSY, a command that is executed idle and BUSY. -/
theorem witness_CmdWriteIsDispatched :
    (0x0C#6).extractLsb' 2 4 = 3 ∧
    (∀ w : Word, (encoding 1 1 none [.regWrite 0x0C w]).resetSeen = true) ∧
    (∀ w : Word, (encoding 1 1 none [.regWrite 0x0C w]).host.turns = [.regWrite 0x0C w]) ∧
    decode 0x6 = .illegal .illegalOp ∧ decode 0x10 = .illegal .reservedBits ∧
    (decode 0x5 = .command .tblCheck ∧ (encoding 1 1 none []).eng.job ≠ .idle) ∧
    (decode 0x5 = .command .tblCheck ∧ (idle (oneLut 1) 1 []).eng.job = .idle) ∧
    decode 0x0 = .command .nop ∧ decode 0xF = .command .abort := by
  refine ⟨by decide, fun _ => rfl, fun _ => rfl, ?_⟩
  decide

/-- Every register number has an offset, also with offset bits [1:0] set: each clause of a write and a read is met. -/
theorem witness_RegisterWriteEffects :
    (∀ n : BitVec 4, ∃ off : BitVec 6, off.extractLsb' 2 4 = n ∧ off.extractLsb' 0 2 = 3) ∧
    ∀ (off : BitVec 6) (w : Word), (idle (oneLut 1) 1 [.regWrite off w]).resetSeen = true ∧
      (idle (oneLut 1) 1 [.regWrite off w]).host.turns = [.regWrite off w] :=
  ⟨by decide, fun _ _ => ⟨rfl, rfl⟩⟩

theorem witness_RegisterReadValues (off : BitVec 6) :
    (idle (oneLut 1) 1 [.regRead off]).resetSeen = true ∧
    (idle (oneLut 1) 1 [.regRead off]).host.turns = [.regRead off] :=
  ⟨rfl, rfl⟩

/-- The four clauses: each move enabled, each move blocked. -/
theorem witness_OfferAndTakeOnePortByte :
    ((encoding 1 1 none [.offer 7]).resetSeen = true ∧ (encoding 1 1 none [.offer 7]).inSlot = none) ∧
    ((serializing 1 0).resetSeen = true ∧ { serializing 1 0 with outSlot := some 0x30 }.outSlot = some 0x30) ∧
    ((encoding 1 1 (some 8) [.offer 7]).inSlot = some 8 ∧ (encoding 1 1 (some 8) [.offer 7]).host.turns = [.offer 7]) ∧
    ((encoding 1 1 none [.take]).outSlot = none ∧ (encoding 1 1 none [.take]).host.turns = [.take]) := by
  decide

/-- Reset while a job runs and OUT.slot is full, and as the first step after power-up. -/
theorem witness_ResetGivesEveryResetValue :
    { encoding 1 1 (some 0x62) [.reset] with outSlot := some 0x20 }.host.turns = [.reset] ∧
    { encoding 1 1 (some 0x62) [.reset] with resetSeen := false }.host.turns = [.reset] := by decide

theorem witness_BeforeFirstResetOnlyResetIsTaken :
    { idle (oneLut 1) 1 [.take] with resetSeen := false }.resetSeen = false ∧
    (∀ ts, { idle (oneLut 1) 1 [.take] with resetSeen := false }.host.turns ≠ .reset :: ts) ∧
    { idle (oneLut 1) 1 [.reset] with resetSeen := false }.host.turns = [.reset] :=
  ⟨rfl, fun _ h => by simp [idle] at h, rfl⟩

/-- Each engine step is enabled somewhere. -/
theorem witness_EngineGuardsAsTabulatedAndExclusive :
    engineGuard .encConsume (encoding 1 1 (some 0x61) []) = true ∧
    engineGuard .encEmitChar (serializing 127 126) = true ∧
    engineGuard .encEmitDelim (serializing 127 127) = true ∧
    engineGuard .encFinish (encoding 1 0 none []) = true ∧
    engineGuard .decConsume (decoding 1 1 (some 0x30) []) = true ∧
    engineGuard .decFlush (token 1 0 none false 1) = true ∧
    engineGuard .decFinish (decoding 1 0 none []) = true := by decide +kernel

/-- The three clauses: a host's move, an engine step in its place and with no move to come, a wait. -/
theorem witness_EveryStepIsOneEnabledStepOrAWait :
    step (idle (oneLut 1) 1 [.offer 7]) = .next (after (idle (oneLut 1) 1 [.offer 7])) ∧
    turnGuard (.offer 7) (idle (oneLut 1) 1 [.offer 7]) = true ∧
    step (decoding 1 0 none []) = .next (after (decoding 1 0 none [])) ∧
    engineGuard .decFinish (decoding 1 0 none []) = true ∧
    step (encoding 1 1 none [.take]) = .next (after (encoding 1 1 none [.take])) ∧
    (∀ e, engineGuard e (encoding 1 1 none [.take]) = false) :=
  ⟨step_after rfl, rfl, step_after rfl, by decide, step_after rfl, by intro e; cases e <;> rfl⟩

theorem witness_AnyEnabledStepMayBeTakenNext :
    (encoding 1 1 (some 0x61) []).resetSeen = true ∧ engineGuard .encConsume (encoding 1 1 (some 0x61) []) = true ∧
    turnGuard .reset (encoding 1 1 (some 0x61) []) = true := by decide

theorem witness_NopDoesNothingInAnyState : (0x00000100#32).extractLsb' 0 4 = 0 ∧ (0x00000100#32) ≠ 0 := by decide

/-- The states of the commands' statements: no job running, and a job running. -/
theorem witness_AbortEndsARunningJob :
    (idle (oneLut 1) 1 []).eng.job = .idle ∧ (encoding 1 1 none []).eng.job ≠ .idle := by decide

/-- Also of the statements of TBL_CLEAR, ENT_WRITE and ENT_INVAL, which assume an idle state only. -/
theorem witness_OnlyNopAndAbortAreAcceptedWhileBusy :
    (encoding 1 1 none []).eng.job ≠ .idle ∧ (decoding 1 1 none []).eng.job ≠ .idle ∧
    Instr.entWrite 0x7F ≠ .nop ∧ Instr.entWrite 0x7F ≠ .abort := by decide

theorem witness_TblClearEmptiesTheLut : (idle abcLut 3 []).eng.job = .idle := by decide

/-- A row that is valid and one that is not, the longest code among them. -/
theorem witness_EntWriteStoresTheStagedCode :
    { idle (oneLut 1) 1 [] with entLen := 127 }.eng.job = .idle ∧
    ((idle (oneLut 1) 1 []).entry 0x61).valid = true ∧ ((idle (oneLut 1) 1 []).entry 0x7F).valid = false := by
  decide +kernel

theorem witness_EntReadCopiesTheRowToStaging :
    (idle (oneLut 127) 1 []).eng.job = .idle ∧ ((idle (oneLut 127) 1 []).entry 0x61).valid = true ∧
    ((idle (oneLut 127) 1 []).entry 0x00).valid = false := by decide +kernel

theorem witness_EntInvalDropsOneRow :
    (idle (oneLut 1) 1 []).eng.job = .idle ∧ ((idle (oneLut 1) 1 []).entry 0x61).valid = true := by decide +kernel

theorem witness_TblCheckReportsInjectivity :
    (idle (oneLut 0) 1 []).eng.job = .idle ∧ (idle (oneLut 0) 1 []).lut.Injective ∧
    (idle dupLut 2 []).eng.job = .idle ∧ ¬ (idle dupLut 2 []).lut.Injective :=
  ⟨rfl, oneLut_injective 0, rfl, dupLut_not_injective⟩

/-- Both clauses, and each condition of EMPTY_INPUT alone. -/
theorem witness_EncStartStartsOrReportsEmptyInput :
    ({ idle (oneLut 1) 1 [] with inLen := 1 }.eng.job = .idle ∧
      { idle (oneLut 1) 1 [] with inLen := 1 }.tableCount ≠ 0 ∧ { idle (oneLut 1) 1 [] with inLen := 1 }.inLen ≠ 0) ∧
    (idle (oneLut 1) 1 []).inLen = 0 ∧ (idle Lut.empty 0 []).tableCount = 0 := by decide

theorem witness_DecStartStartsOrReportsADuplicate :
    ((idle (oneLut 0) 1 []).Inv ∧ (idle (oneLut 0) 1 []).eng.job = .idle ∧ (idle (oneLut 0) 1 []).lut.Injective ∧
      (idle (oneLut 0) 1 []).lut.DegenerateAt 0x61) ∧
    ((idle (oneLut 1) 1 []).Inv ∧ (idle (oneLut 1) 1 []).lut.Injective ∧
      ∀ k, ¬ (idle (oneLut 1) 1 []).lut.DegenerateAt k) ∧
    ((idle dupLut 2 []).Inv ∧ (idle dupLut 2 []).eng.job = .idle ∧ ¬ (idle dupLut 2 []).lut.Injective) := by
  refine ⟨⟨inv_idle 0 [], rfl, oneLut_injective 0, (oneLut_degenerate 0 _).mpr ⟨rfl, rfl⟩⟩,
    ⟨inv_idle 1 [], oneLut_injective 1, ?_⟩, inv_dupLut, rfl, dupLut_not_injective⟩
  intro k h
  exact absurd ((oneLut_degenerate 1 k).mp h).2 (by decide)

theorem witness_FindDupIsTheFirstPair : (idle dupLut 2 []).findDup = some (0x61, 0x62) := by decide +kernel

/-- The three clauses: the bytes 0x80 and 0x7F, at the edge of the range, and a symbol with a row. -/
theorem witness_EncConsumeLooksUpTheByte :
    engineGuard .encConsume (encoding 1 1 (some 0x80) []) = true ∧
    engineGuard .encConsume (encoding 1 1 (some 0x7F) []) = true ∧
    ((encoding 1 1 (some 0x7F) []).entry ((0x7F : Byte).setWidth 7)).valid = false ∧
    engineGuard .encConsume (encoding 1 1 (some 0x61) []) = true ∧
    ((encoding 1 1 (some 0x61) []).entry ((0x61 : Byte).setWidth 7)).valid = true := by decide +kernel

/-- The last character of the longest code. -/
theorem witness_EncEmitCharEmitsTheNextCharacter : engineGuard .encEmitChar (serializing 127 126) = true := by
  decide +kernel

theorem witness_EncDelimiterAndFinish :
    engineGuard .encEmitDelim (serializing 0 0) = true ∧ engineGuard .encFinish (encoding 0 0 none []) = true := by
  decide +kernel

/-- The clauses in order: a first character, a first dead byte, a dead token, the 127th character, the 128th. -/
theorem witness_DecConsumeExtendsTheToken :
    (engineGuard .decConsume (decoding 1 1 (some 0x31) []) = true ∧ (decoding 1 1 (some 0x31) []).eng.decIntok = false) ∧
    (engineGuard .decConsume (decoding 1 1 (some 0x80) []) = true ∧
      (0x80 : Byte).toNat ∉ [0x09, 0x0A, 0x0B, 0x0C, 0x0D, 0x20]) ∧
    (engineGuard .decConsume (token 1 1 (some 0x31) true 1) = true ∧ (token 1 1 (some 0x31) true 1).eng.decDead = true) ∧
    (engineGuard .decConsume (token 1 1 (some 0x31) false 126) = true ∧
      (token 1 1 (some 0x31) false 126).eng.decIntok = true ∧ (token 1 1 (some 0x31) false 126).eng.decLen ≠ 127 ∧
      (token 1 1 (some 0x31) false 126).eng.decAcc.toNat < 2 ^ (token 1 1 (some 0x31) false 126).eng.decLen.toNat) ∧
    (engineGuard .decConsume (token 1 1 (some 0x31) false 127) = true ∧
      (token 1 1 (some 0x31) false 127).eng.decLen = 127) := by decide +kernel

/-- The clauses in order: degenerate mode, no token open, a dead token, a token that matches, one that does not. -/
theorem witness_DecConsumeEndsTheToken :
    ((token 0 1 (some 0x20) true 0).Inv ∧ engineGuard .decConsume (token 0 1 (some 0x20) true 0) = true ∧
      (token 0 1 (some 0x20) true 0).eng.degen = true) ∧
    ((decoding 1 1 (some 0x09) []).Inv ∧ engineGuard .decConsume (decoding 1 1 (some 0x09) []) = true ∧
      (decoding 1 1 (some 0x09) []).eng.degen = false ∧ (decoding 1 1 (some 0x09) []).eng.decIntok = false) ∧
    ((token 1 1 (some 0x0D) true 0).Inv ∧ engineGuard .decConsume (token 1 1 (some 0x0D) true 0) = true ∧
      (token 1 1 (some 0x0D) true 0).eng.decDead = true) ∧
    ((token 1 1 (some 0x20) false 1).Inv ∧ engineGuard .decConsume (token 1 1 (some 0x20) false 1) = true ∧
      (token 1 1 (some 0x20) false 1).matchCode 1 0 = some 0x61) ∧
    ((token 1 1 (some 0x20) false 2).Inv ∧ engineGuard .decConsume (token 1 1 (some 0x20) false 2) = true ∧
      (token 1 1 (some 0x20) false 2).matchCode 2 0 = none) :=
  ⟨⟨inv_token _ _ _ _ _ (by decide), by decide +kernel⟩, ⟨inv_decoding _ _ _ _, by decide +kernel⟩,
    ⟨inv_token _ _ _ _ _ (by decide), by decide +kernel⟩, ⟨inv_token _ _ _ _ _ (by decide), by decide +kernel⟩,
    inv_token _ _ _ _ _ (by decide), by decide +kernel⟩

theorem witness_DecFlushAndFinish :
    (engineGuard .decFlush (token 1 0 none true 0) = true ∧ (token 1 0 none true 0).eng.decDead = true) ∧
    (engineGuard .decFlush (token 1 0 none false 1) = true ∧ (token 1 0 none false 1).matchCode 1 0 = some 0x61) ∧
    (engineGuard .decFlush (token 1 0 none false 2) = true ∧ (token 1 0 none false 2).matchCode 2 0 = none) ∧
    engineGuard .decFinish (decoding 1 0 none []) = true := by decide +kernel

theorem witness_MatchIsExact :
    (decoding 127 1 none []).Inv ∧ (decoding 127 1 none []).eng.job = .dec ∧
    (decoding 127 1 none []).matchCode 127 0 = some 0x61 ∧ (decoding 127 1 none []).matchCode 126 0 = none :=
  ⟨inv_decoding _ _ _ _, by decide +kernel⟩

theorem witness_StepKeepsInvariants :
    (encoding 1 1 (some 0x61) []).Inv ∧ step (encoding 1 1 (some 0x61) []) = .next (after (encoding 1 1 (some 0x61) [])) ∧
    (after (encoding 1 1 (some 0x61) [])).eng.encActive = true :=
  ⟨inv_encoding _ _ _ _, step_after rfl, by decide +kernel⟩

theorem witness_LutIsFixedWhileAJobRuns :
    step (encoding 1 1 none [.regWrite 0x0C 1]) = .next (after (encoding 1 1 none [.regWrite 0x0C 1])) ∧
    (encoding 1 1 none [.regWrite 0x0C 1]).eng.job ≠ .idle ∧
    (∀ ts, (encoding 1 1 none [.regWrite 0x0C 1]).host.turns ≠ .reset :: ts) :=
  ⟨step_after rfl, by decide, fun _ h => by simp [encoding, idle] at h⟩

/-- A state whose next move is ENT_WRITE of a row that is not valid. -/
theorem witness_TableCountChangesOnlyByTableCommands :
    (idle (oneLut 1) 1 [.regWrite 0x0C 0x6202]).Inv ∧
    step (idle (oneLut 1) 1 [.regWrite 0x0C 0x6202]) = .next (after (idle (oneLut 1) 1 [.regWrite 0x0C 0x6202])) ∧
    (after (idle (oneLut 1) 1 [.regWrite 0x0C 0x6202])).tableCount ≠ (idle (oneLut 1) 1 []).tableCount :=
  ⟨inv_idle _ _, step_after rfl, by decide +kernel⟩

theorem witness_LutChangesOnlyByTableCommands :
    step (idle (oneLut 1) 1 [.regWrite 0x0C 1]) = .next (after (idle (oneLut 1) 1 [.regWrite 0x0C 1])) ∧
    (after (idle (oneLut 1) 1 [.regWrite 0x0C 1])).lut ≠ (idle (oneLut 1) 1 [.regWrite 0x0C 1]).lut :=
  ⟨step_after rfl, by decide +kernel⟩

/-- The clauses in order: BUSY rises by ENC_START and falls by ENC_FINISH, DONE rises by ENC_FINISH and falls by W1C, ERR
rises by ENC_CONSUME and falls by ENC_START, CMD_ERR rises by an illegal word and falls by W1C. -/
theorem witness_FlagsChangeOnlyAsListed :
    ({ idle (oneLut 1) 1 [.regWrite 0x0C 8] with inLen := 1 }.busy = false ∧
      (after { idle (oneLut 1) 1 [.regWrite 0x0C 8] with inLen := 1 }).busy = true) ∧
    ((encoding 1 0 none []).busy = true ∧ (after (encoding 1 0 none [])).busy = false ∧
      (encoding 1 0 none []).done = false ∧ (after (encoding 1 0 none [])).done = true) ∧
    ({ idle (oneLut 1) 1 [.regWrite 0x10 2] with done := true }.done = true ∧
      (after { idle (oneLut 1) 1 [.regWrite 0x10 2] with done := true }).done = false) ∧
    ((encoding 1 1 (some 0x80) []).err = false ∧ (after (encoding 1 1 (some 0x80) [])).err = true) ∧
    ({ idle (oneLut 1) 1 [.regWrite 0x0C 8] with inLen := 1, err := true }.err = true ∧
      (after { idle (oneLut 1) 1 [.regWrite 0x0C 8] with inLen := 1, err := true }).err = false) ∧
    ((idle (oneLut 1) 1 [.regWrite 0x0C 6]).cmdErr = false ∧
      (after (idle (oneLut 1) 1 [.regWrite 0x0C 6])).cmdErr = true) ∧
    ({ idle (oneLut 1) 1 [.regWrite 0x10 8] with cmdErr := true, cmdCause := .busy }.cmdErr = true ∧
      (after { idle (oneLut 1) 1 [.regWrite 0x10 8] with cmdErr := true, cmdCause := .busy }).cmdErr = false) := by
  decide +kernel

theorem witness_EntLenValidIsWrittenOnlyByEntRead :
    step (idle (oneLut 1) 1 [.regWrite 0x0C 0x6103]) = .next (after (idle (oneLut 1) 1 [.regWrite 0x0C 0x6103])) ∧
    (after (idle (oneLut 1) 1 [.regWrite 0x0C 0x6103])).entValid ≠
      (idle (oneLut 1) 1 [.regWrite 0x0C 0x6103]).entValid :=
  ⟨step_after rfl, by decide +kernel⟩

theorem witness_DecodeJobsRaiseNoError :
    (decoding 1 1 (some 0x80) []).Inv ∧ step (decoding 1 1 (some 0x80) []) = .next (after (decoding 1 1 (some 0x80) [])) ∧
    (decoding 1 1 (some 0x80) []).eng.job = .dec ∧ ¬ CommandIsNext .abort (decoding 1 1 (some 0x80) []) :=
  ⟨inv_decoding _ _ _ _, step_after rfl, rfl, by rintro ⟨_, _, _, h, _⟩; simp [decoding, idle] at h⟩

theorem witness_StartTimeErrorsStartNoJob :
    (exec .encStart (idle (oneLut 1) 1 []) = .next (resultOf .encStart (idle (oneLut 1) 1 [])) ∧
      (resultOf .encStart (idle (oneLut 1) 1 [])).err = true) ∧
    (exec .decStart (idle dupLut 2 []) = .next (resultOf .decStart (idle dupLut 2 [])) ∧
      (resultOf .decStart (idle dupLut 2 [])).err = true) ∧
    (exec .tblCheck (idle dupLut 2 []) = .next (resultOf .tblCheck (idle dupLut 2 [])) ∧
      (resultOf .tblCheck (idle dupLut 2 [])).err = true) :=
  ⟨⟨rfl, by decide +kernel⟩, ⟨rfl, by decide +kernel⟩, ⟨rfl, by decide +kernel⟩⟩

theorem witness_IrqIsEnabledPendingFlags :
    step { idle (oneLut 1) 1 [.regWrite 0x08 1] with done := true } =
      .next (after { idle (oneLut 1) 1 [.regWrite 0x08 1] with done := true }) ∧
    (after { idle (oneLut 1) 1 [.regWrite 0x08 1] with done := true }).irq = true :=
  ⟨step_after rfl, by decide +kernel⟩

/-! ### Jobs -/

theorem justStarted_encoding (len : CodeLen) (n : Word) (b : Option Byte) (ts : List Turn) :
    JustStarted .enc (encoding len n b ts) :=
  ⟨rfl, rfl, rfl, rfl, rfl, rfl, rfl⟩

theorem justStarted_decoding (len : CodeLen) (n : Word) (b : Option Byte) (ts : List Turn) :
    JustStarted .dec (decoding len n b ts) :=
  ⟨rfl, rfl, rfl, rfl, rfl, rfl, rfl⟩

/-- `n` steps. -/
def afterN : Nat → State → State
  | 0, s => s
  | n + 1, s => after (afterN n s)

/-- The bytes `n` steps consume. -/
def consumedN : Nat → State → List Byte
  | 0, _ => []
  | n + 1, s => consumedN n s ++ consumed (afterN n s) (after (afterN n s))

/-- Steps during which the job goes on are a run of it. -/
theorem jobRun_afterN (kind : Job) (s : State) :
    ∀ n, (∀ m, m ≤ n → (afterN m s).resetSeen = true ∧ (afterN m s).eng.job = kind) →
      JobRun kind s (consumedN n s) (afterN n s)
  | 0, h => .start (h 0 (Nat.le_refl 0)).2
  | n + 1, h =>
    .more _ _ _ (jobRun_afterN kind s n fun m hm => h m (Nat.le_succ_of_le hm))
      (step_after (h n (Nat.le_succ n)).1) (h (n + 1) (Nat.le_refl _)).2

/-- A job that the step after `n` others ends. -/
theorem jobEnds_afterN (kind : Job) (s : State) (n : Nat)
    (h : ∀ m, m < n + 1 → (afterN m s).resetSeen = true ∧ (afterN m s).eng.job = kind)
    (hu : (afterN (n + 1) s).eng.job = .idle)
    (hf : (afterN (n + 1) s).done = true ∨ (afterN (n + 1) s).err = true) : JobEnds kind s (consumedN (n + 1) s) (afterN (n + 1) s) :=
  ⟨_, _, jobRun_afterN kind s n fun m hm => h m (Nat.lt_succ_of_le hm), step_after (h n (Nat.lt_succ_self n)).1, hu, hf,
    rfl⟩

/-- The encode job of "a" on the LUT a = "": consume, the space, a take, the end. -/
theorem witness_EncodeJobDeliversItsTokenStream :
    ∃ u, (encoding 0 1 (some 0x61) [.take]).Inv ∧ JustStarted .enc (encoding 0 1 (some 0x61) [.take]) ∧
      JobEnds .enc (encoding 0 1 (some 0x61) [.take]) [0x61] u ∧ u.done = true ∧ u.host.taken = [0x20] :=
  ⟨afterN 4 (encoding 0 1 (some 0x61) [.take]), inv_encoding _ _ _ _, justStarted_encoding _ _ _ _,
    jobEnds_afterN .enc _ 3 (by decide +kernel) (by decide +kernel) (by decide +kernel), by decide +kernel⟩

/-- A run of that job before its end. -/
theorem witness_InCountAndRemainingMakeTheJobLength :
    (encoding 0 1 (some 0x61) []).Inv ∧ Job.enc ≠ .idle ∧ JustStarted .enc (encoding 0 1 (some 0x61) []) ∧
      JobRun .enc (encoding 0 1 (some 0x61) []) [0x61] (afterN 1 (encoding 0 1 (some 0x61) [])) :=
  ⟨inv_encoding _ _ _ _, by decide, justStarted_encoding _ _ _ _, jobRun_afterN .enc _ 1 (by decide +kernel)⟩

/-- A job that fails at "b" in "ab", the space of "a" taken (M bytes received) and not (M - 1 bytes). -/
theorem witness_FailedEncodeJobStopsAtTheFirstBadByte :
    (∃ u, (encoding 0 2 (some 0x61) [.offer 0x62, .take]).Inv ∧
      JustStarted .enc (encoding 0 2 (some 0x61) [.offer 0x62, .take]) ∧
      JobEnds .enc (encoding 0 2 (some 0x61) [.offer 0x62, .take]) [0x61, 0x62] u ∧ u.err = true ∧
      u.errCode ≠ .aborted ∧ u.host.taken = [0x20]) ∧
    (∃ u, (encoding 0 2 (some 0x61) [.offer 0x62]).Inv ∧
      JustStarted .enc (encoding 0 2 (some 0x61) [.offer 0x62]) ∧
      JobEnds .enc (encoding 0 2 (some 0x61) [.offer 0x62]) [0x61, 0x62] u ∧ u.err = true ∧
      u.errCode ≠ .aborted ∧ u.host.taken = []) :=
  ⟨⟨afterN 5 (encoding 0 2 (some 0x61) [.offer 0x62, .take]), inv_encoding _ _ _ _, justStarted_encoding _ _ _ _,
    jobEnds_afterN .enc _ 4 (by decide +kernel) (by decide +kernel) (by decide +kernel), by decide +kernel⟩,
   ⟨afterN 4 (encoding 0 2 (some 0x61) [.offer 0x62]), inv_encoding _ _ _ _, justStarted_encoding _ _ _ _,
    jobEnds_afterN .enc _ 3 (by decide +kernel) (by decide +kernel) (by decide +kernel), by decide +kernel⟩⟩

theorem witness_EncodeJobCanFinish :
    (encoding 127 2 none []).Inv ∧ (encoding 127 2 none []).resetSeen = true ∧ JustStarted .enc (encoding 127 2 none []) ∧
    (encoding 127 2 none []).inSlot = none ∧ (encoding 127 2 (some 0x61) []).inSlot = [0x61, 0x61].head? ∧
    [0x61, 0x61].length = (encoding 127 2 none []).eng.remaining.toNat ∧
    (∀ b ∈ [0x61, 0x61], encodable (encoding 127 2 none []).lut b = true) :=
  ⟨inv_encoding _ _ _ _, rfl, justStarted_encoding _ _ _ _, rfl, rfl, rfl, by decide +kernel⟩

/-- The decode job of "0" and a space on the LUT a = "0". -/
theorem witness_DecodeJobDeliversTheMatchedSymbols :
    ∃ u, (decoding 1 2 (some 0x30) [.offer 0x20, .take]).Inv ∧
      JustStarted .dec (decoding 1 2 (some 0x30) [.offer 0x20, .take]) ∧
      JobEnds .dec (decoding 1 2 (some 0x30) [.offer 0x20, .take]) [0x30, 0x20] u ∧ u.done = true ∧
      u.host.taken = [0x61] :=
  ⟨afterN 5 (decoding 1 2 (some 0x30) [.offer 0x20, .take]), inv_decoding _ _ _ _, justStarted_decoding _ _ _ _,
    jobEnds_afterN .dec _ 4 (by decide +kernel) (by decide +kernel) (by decide +kernel), by decide +kernel⟩

theorem witness_DecodeJobCanFinish :
    (decoding 1 2 none []).Inv ∧ (decoding 1 2 none []).resetSeen = true ∧ JustStarted .dec (decoding 1 2 none []) ∧
    (decoding 1 2 none []).inSlot = none ∧ (decoding 1 2 (some 0x80) []).inSlot = [0x80, 0x30].head? ∧
    [0x80, 0x30].length = (decoding 1 2 none []).eng.remaining.toNat :=
  ⟨inv_decoding _ _ _ _, rfl, justStarted_decoding _ _ _ _, rfl, rfl, rfl⟩

/-- Both premises on the LUT: a = "" (degenerate), and a = "0". -/
theorem witness_EncodeThenDecodeRoundTrips :
    (∃ u1 u2,
      JobEnds .enc (encoding 0 1 (some 0x61) [.take]) [0x61] u1 ∧ u1.done = true ∧ u1.host.taken = [0x20] ∧
      JobEnds .dec (decoding 0 1 (some 0x20) [.take]) [0x20] u2 ∧ u2.done = true ∧
      (decoding 0 1 (some 0x20) [.take]).Inv ∧ JustStarted .dec (decoding 0 1 (some 0x20) [.take]) ∧
      (decoding 0 1 (some 0x20) [.take]).lut = (encoding 0 1 (some 0x61) [.take]).lut ∧
      (encoding 0 1 (some 0x61) [.take]).lut.DegenerateAt 0x61) ∧
    (∃ u1 u2,
      JobEnds .enc (encoding 1 1 (some 0x61) [.take, .take]) [0x61] u1 ∧ u1.done = true ∧
      u1.host.taken = [0x30, 0x20] ∧
      JobEnds .dec (decoding 1 2 (some 0x30) [.offer 0x20, .take]) [0x30, 0x20] u2 ∧ u2.done = true ∧
      (∀ k, ((encoding 1 1 (some 0x61) [.take, .take]).entry k).valid = true →
        1 ≤ ((encoding 1 1 (some 0x61) [.take, .take]).entry k).len.toNat)) := by
  refine ⟨⟨afterN 4 (encoding 0 1 (some 0x61) [.take]), afterN 3 (decoding 0 1 (some 0x20) [.take]),
      jobEnds_afterN .enc _ 3 (by decide +kernel) (by decide +kernel) (by decide +kernel), by decide +kernel, by decide +kernel,
      jobEnds_afterN .dec _ 2 (by decide +kernel) (by decide +kernel) (by decide +kernel), by decide +kernel, inv_decoding _ _ _ _,
      justStarted_decoding _ _ _ _, rfl, (oneLut_degenerate 0 _).mpr ⟨rfl, rfl⟩⟩,
    ⟨afterN 6 (encoding 1 1 (some 0x61) [.take, .take]), afterN 5 (decoding 1 2 (some 0x30) [.offer 0x20, .take]),
      jobEnds_afterN .enc _ 5 (by decide +kernel) (by decide +kernel) (by decide +kernel), by decide +kernel, by decide +kernel,
      jobEnds_afterN .dec _ 4 (by decide +kernel) (by decide +kernel) (by decide +kernel), by decide +kernel, ?_⟩⟩
  intro k hk
  change (lutAt (oneLut 1) k).valid = true at hk
  change 1 ≤ (lutAt (oneLut 1) k).len.toNat
  rw [lutAt_oneLut] at hk ⊢
  split at hk
  · rename_i h; rw [if_pos h]; decide
  · simp [Entry.invalid] at hk

theorem witness_DegenerateEncodingIsSpaces :
    (oneLut 0).DegenerateAt 0x61 ∧ (lutAt (oneLut 0) 0x61).len = 0 :=
  ⟨(oneLut_degenerate 0 _).mpr ⟨rfl, rfl⟩, by decide +kernel⟩

/-- A byte other than '0' and '1', and 128 characters. -/
theorem witness_DeadTokensMatchNothing :
    (∃ b ∈ [0x30, 0x80], b ≠ (0x30 : Byte) ∧ b ≠ 0x31) ∧ 127 < (List.replicate 128 (0x31 : Byte)).length :=
  ⟨by decide, by simp⟩

/-! ### The host reference procedure -/

/-- A width that holds the counts of "aa", and one that does not; unbounded counts always fit. -/
theorem countsFit_aa :
    CountsFit none [0x61, 0x61] ∧ CountsFit (some 2) [0x61, 0x61] ∧ ¬ CountsFit (some 1) [0x61, 0x61] := by
  refine ⟨?_, ?_, fun h => absurd (h 1 rfl 0x61) (by decide)⟩
  · rintro w ⟨⟩
  · rintro w ⟨rfl⟩ ch
    exact lt_of_le_of_lt (List.count_le_length (a := ch)) (by decide)

theorem witness_FrequencyCounterCountsTheText :
    (∃ c ∈ [0x61, 128], 128 ≤ c) ∧ (∀ c ∈ [0x61, 0x61], c < 128) ∧ CountsFit (some 2) [0x61, 0x61] :=
  ⟨by decide, by decide, countsFit_aa.2.1⟩

theorem witness_HeapOperationsKeepOrder :
    HeapOrdered [.leaf 0 1, .leaf 1 2] ∧ heapRemoveTop [.leaf 0 1, .leaf 1 2] = .ok (.leaf 0 1, [.leaf 1 2]) := by
  refine ⟨?_, rfl⟩
  intro c x y hc hx hy
  rcases c with _ | _ | c
  · omega
  · simp at hx hy
    subst hx hy
    decide
  · simp at hx

/-- "aab": frequencies a 2, b 1. -/
theorem witness_ReferenceBuilderIsOneOutcome :
    ∃ f : Freq, frequencies (some 2) [0x61, 0x61, 0x62] = .ok f ∧ 0 < f[(0x61#7).toNat]'(0x61#7).isLt :=
  ⟨((Vector.replicate 128 0).set 0x61 2).set 0x62 1, by decide +kernel, by decide +kernel⟩

/-- Both child orders of the one merge of "aab". -/
theorem witness_EveryBuiltTableIsPrefixFree :
    ∃ f : Freq, frequencies (some 2) [0x61, 0x61, 0x62] = .ok f ∧
      Builds (leaves f) (.node 3 (.leaf 0x62 1) (.leaf 0x61 2)) ∧
      Builds (leaves f) (.node 3 (.leaf 0x61 2) (.leaf 0x62 1)) := by
  have hl : leaves (((Vector.replicate 128 0).set 0x61 2).set 0x62 1) = [.leaf 0x61 2, .leaf 0x62 1] := by
    decide +kernel
  refine ⟨((Vector.replicate 128 0).set 0x61 2).set 0x62 1, by decide +kernel, ?_, ?_⟩
  · rw [hl]
    exact .mergeLeft _ [] (.leaf 0x62 1) (.leaf 0x61 2) _ (List.Perm.swap ..) (by decide) (by simp) (.done _)
  · rw [hl]
    exact .mergeRight _ [] (.leaf 0x62 1) (.leaf 0x61 2) _ (List.Perm.swap ..) (by decide) (by simp) (.done _)

/-- The degenerate case: a text of one symbol. -/
theorem witness_BuiltTablesRoundTrip :
    ∃ (f : Freq) (t : Tree), frequencies (some 2) [0x61, 0x61] = .ok f ∧ Builds (leaves f) t ∧
      CountsFit (some 2) [0x61, 0x61] ∧ ∀ b ∈ textBytes [0x61, 0x61], encodable (lutOf (codes t [])) b = true :=
  ⟨(Vector.replicate 128 0).set 0x61 2, .leaf 0x61 2, by decide +kernel, by
    have hl : leaves ((Vector.replicate 128 0).set 0x61 2) = [.leaf 0x61 2] := by decide +kernel
    rw [hl]
    exact .done _, countsFit_aa.2.1, by decide +kernel⟩

/-- Also of the whole load: it assumes an idle state only. The empty code, the longest, and one that is too long. -/
theorem witness_LoadCodeWritesTheRow :
    (idle (oneLut 1) 1 []).resetSeen = true ∧ (idle (oneLut 1) 1 []).eng.job = .idle ∧
    ([] : List Bool).length ≤ 127 ∧ (List.replicate 127 true).length ≤ 127 ∧
    ¬ (List.replicate 128 true).length ≤ 127 :=
  ⟨rfl, rfl, by simp, by simp, by simp⟩

/-- R190 and log 13: a code of 128 characters loads as one of length 0, and what the moves write is `rowOf`. -/
theorem test_loadCode_too_long :
    (afterN 6 (idle Lut.empty 0 (loadCode 0x41 (List.replicate 128 true)))).entry 0x41 = row 0 0 ∧
    rowOf (List.replicate 128 true) = row 0 0 := by decide +kernel

/-! ### WAITJOB and DRAIN (R79) -/

/-- The job of "a" with code "", its one space taken between two reads of STATUS: BUSY is 1, then 0. -/
theorem test_waitJob :
    ∃ t, WaitJob [.take] (encoding 0 1 (some 0x61) [.regRead 0x10, .engine, .engine, .take, .engine, .regRead 0x10]) t ∧
      t.host.taken = [0x20] ∧ t.done = true := by
  refine ⟨afterN 6 (encoding 0 1 (some 0x61) [.regRead 0x10, .engine, .engine, .take, .engine, .regRead 0x10]), ?_,
    by decide +kernel, by decide +kernel⟩
  refine .again _ _ _ _ ⟨rfl, rfl, step_after rfl⟩ (by decide +kernel) ?_
  refine .meanwhile [] _ _ _ _ (.inl ⟨rfl, ?_, step_after (by decide +kernel)⟩) ?_
  · rintro m ⟨⟩; exact .inl rfl
  refine .meanwhile [] _ _ _ _ (.inl ⟨rfl, ?_, step_after (by decide +kernel)⟩) ?_
  · rintro m ⟨⟩; exact .inl rfl
  refine .meanwhile [.take] [] _ _ _ (.inr ⟨.take, .inl rfl, rfl, by decide +kernel, by decide +kernel,
    step_after (by decide +kernel)⟩) ?_
  refine .meanwhile [] _ _ _ _ (.inl ⟨rfl, ?_, step_after (by decide +kernel)⟩) ?_
  · rintro m ⟨⟩; exact .inl rfl
  exact .stop _ _ ⟨by decide +kernel, by decide +kernel, step_after (by decide +kernel)⟩ (by decide +kernel)

/-- The same job drained, its byte offered meanwhile. -/
theorem test_drain :
    ∃ t, Drain [.offer 0x61, .take] (encoding 0 1 none [.offer 0x61, .engine, .engine, .take, .engine]) t ∧
      t.host.taken = [0x20] ∧ t.done = true := by
  refine ⟨afterN 5 (encoding 0 1 none [.offer 0x61, .engine, .engine, .take, .engine]), ?_, by decide +kernel,
    by decide +kernel⟩
  refine .meanwhile [.offer 0x61] [.take] _ _ _ (.inl rfl) (.inr ⟨_, .inr ⟨_, rfl⟩, rfl, rfl, rfl, step_after rfl⟩) ?_
  refine .meanwhile [] _ _ _ _ (.inl (by decide +kernel)) (.inl ⟨rfl, ?_, step_after (by decide +kernel)⟩) ?_
  · rintro m ⟨⟩; exact .inl rfl
  refine .meanwhile [] _ _ _ _ (.inl (by decide +kernel)) (.inl ⟨rfl, ?_, step_after (by decide +kernel)⟩) ?_
  · rintro m ⟨⟩; exact .inl rfl
  refine .meanwhile [.take] [] _ _ _ (.inl (by decide +kernel)) (.inr ⟨.take, .inl rfl, rfl, by decide +kernel,
    by decide +kernel, step_after (by decide +kernel)⟩) ?_
  refine .meanwhile [] _ _ _ _ (.inl (by decide +kernel)) (.inl ⟨rfl, ?_, step_after (by decide +kernel)⟩) ?_
  · rintro m ⟨⟩; exact .inl rfl
  exact .stop _ (by decide +kernel) (by decide +kernel)

/-! ### Fair runs and the host's transforms -/

/-- A state that waits for input, and one that waits for a take. -/
theorem witness_FairRunsEndTheJob_waits :
    ((encoding 1 1 none []).Inv ∧ (encoding 1 1 none []).busy = true ∧
      ∀ e, engineGuard e (encoding 1 1 none []) = false) ∧
    ((decoding 1 0 none []).Inv ∧ (decoding 1 0 none []).busy = true ∧
      ∀ e, engineGuard e { decoding 1 0 none [] with outSlot := some 0x61 } = false) :=
  ⟨⟨inv_encoding _ _ _ _, rfl, by intro e; cases e <;> rfl⟩,
    ⟨inv_decoding _ _ _ _, rfl, by intro e; cases e <;> rfl⟩⟩

/-- After four steps the job of "a" is over and nothing moves. -/
theorem afterN_settled (n : Nat) (h : 4 ≤ n) :
    afterN n (encoding 0 1 (some 0x61) [.take]) = afterN 4 (encoding 0 1 (some 0x61) [.take]) := by
  induction n, h using Nat.le_induction with
  | base => rfl
  | succ n _ ih =>
    change after (afterN n _) = _
    rw [ih]
    decide +kernel

/-- The run of that job, which does not end, is fair. -/
theorem witness_FairRunsEndTheJob :
    ∃ σ : Nat → State, (σ 0).Inv ∧ (σ 0).busy = true ∧ Run σ ∧ FairHost σ ∧ FairEngine σ := by
  have late (n : Nat) : afterN (n + 4) (encoding 0 1 (some 0x61) [.take]) =
      afterN 4 (encoding 0 1 (some 0x61) [.take]) := afterN_settled _ (by omega)
  have seen : ∀ n, (afterN n (encoding 0 1 (some 0x61) [.take])).resetSeen = true := by
    intro n
    by_cases h : 4 ≤ n
    · rw [afterN_settled n h]; decide +kernel
    · interval_cases n <;> decide +kernel
  refine ⟨fun n => afterN n (encoding 0 1 (some 0x61) [.take]), inv_encoding _ _ _ _, rfl, ?_, ⟨?_, ?_⟩, ?_⟩
  · intro n
    exact ⟨(afterN n (encoding 0 1 (some 0x61) [.take])).host.turns, step_after (seen n)⟩
  · intro n _ _ _
    refine ⟨n + 4, by omega, .inr ?_⟩
    rw [late n]; decide +kernel
  · intro n _ _
    refine ⟨n + 4, by omega, .inr ?_⟩
    rw [late n]; decide +kernel
  · intro n
    refine ⟨n + 4, by omega, .inl ?_⟩
    intro e
    change engineGuard e (afterN (n + 4) _) = false
    rw [late n]
    cases e <;> decide +kernel

/-- What `n` steps after reset give, as a run of the machine. -/
theorem run_afterN (s : State) : ∀ n, (∀ m, m < n → (afterN m s).resetSeen = true) →
    core.run n s = .next (afterN n s)
  | 0, _ => rfl
  | n + 1, h => by
    rw [run_add core (run_afterN s n fun m hm => h m (Nat.lt_succ_of_lt hm))]
    exact run_one (step_after (h n (Nat.lt_succ_self n)))

/-- The table of "a", loaded. -/
def loaded : State :=
  afterN 7 (State.reset.setTurns (loadTable [(0x61, [])]))

theorem makes_loaded : Makes (loadTable [(0x61, [])]) State.reset loaded :=
  ⟨[], run_afterN _ 7 (by decide +kernel)⟩

theorem tableOf_a : TableOf none [0x61] [(0x61, [])] := by
  have hl : leaves ((Vector.replicate 128 0).set 0x61 1) = [.leaf 0x61 1] := by decide +kernel
  exact ⟨(Vector.replicate 128 0).set 0x61 1, .leaf 0x61 1, by decide +kernel, by rw [hl]; exact .done _, rfl⟩

/-- A job started after the load, with the moves that finish it. -/
def started (i : Instr) (ts : List Turn) : State :=
  afterN 2 (loaded.setTurns (startJob i 1 ++ ts))

/-- A host with a self-describing table section (the table's number in unary), a newline as separator, and counts without
bound; `skips` is its policy. -/
def unaryHost (skips : Bool) : HostParams where
  countWidth := none
  tableBlob table := List.replicate (Encodable.encode (table.map fun p => (p.1.toNat, p.2))) 0x31 ++ [0x0A]
  separatorBytes := [0x0A]
  skipsFail := skips

theorem selfDescribing_unaryHost (skips : Bool) : SelfDescribing (unaryHost skips) := by
  have unary : ∀ (m n : Nat) (r r' : List Byte),
      List.replicate m (0x31 : Byte) ++ 0x0A :: r = List.replicate n 0x31 ++ 0x0A :: r' → m = n ∧ r = r' := by
    intro m
    induction m with
    | zero => intro n r r' h; cases n <;> simp_all [List.replicate_succ]
    | succ m ih =>
      intro n r r' h
      cases n with
      | zero => simp [List.replicate_succ] at h
      | succ n =>
        obtain ⟨rfl, rfl⟩ := ih n r r' (by simpa [List.replicate_succ] using h)
        exact ⟨rfl, rfl⟩
  intro table table' rest rest' h
  obtain ⟨hn, hr⟩ := unary _ _ rest rest' (by simpa [unaryHost] using h)
  refine ⟨?_, hr⟩
  have inj : Function.Injective fun p : Sym × List Bool => (p.1.toNat, p.2) := fun p q hpq =>
    Prod.ext (BitVec.eq_of_toNat_eq (Prod.mk.inj hpq).1) (Prod.mk.inj hpq).2
  rw [List.map_injective_iff.mpr inj (Encodable.encode_injective hn)]

/-- Compressing "a" gives a file, and decompressing it gives "a". -/
theorem witness_CompressedTextDecompressesToItself :
    Compresses (unaryHost true) [0x61] State.reset (.ok (fileOf (unaryHost true) [(0x61, [])] [0x20])) ∧
    SelfDescribing (unaryHost true) ∧
    Decompresses (unaryHost true) (fileOf (unaryHost true) [(0x61, [])] [0x20]) State.reset (.ok [0x61]) := by
  refine ⟨.encoded [(0x61, [])] loaded (.ok [0x20]) _ tableOf_a rfl makes_loaded ?_ rfl, selfDescribing_unaryHost true,
    [(0x61, [])], [0x20], rfl, rfl, loaded, makes_loaded, ?_⟩
  · exact .delivered (started .encStart [.offer 0x61, .take]) (afterN 5 (started .encStart [.offer 0x61, .take])) [0x20]
      ⟨by decide, [.offer 0x61, .take], run_afterN _ 2 (by decide +kernel)⟩
      (jobEnds_afterN .enc _ 4 (by decide +kernel) (by decide +kernel) (by decide +kernel))
      (by decide +kernel) (by decide +kernel) (by decide +kernel)
  · exact .delivered (started .decStart [.offer 0x20, .take]) (afterN 4 (started .decStart [.offer 0x20, .take])) [0x61]
      ⟨by decide, [.offer 0x20, .take], run_afterN _ 2 (by decide +kernel)⟩
      (jobEnds_afterN .dec _ 3 (by decide +kernel) (by decide +kernel) (by decide +kernel))
      (by decide +kernel) (by decide +kernel) (by decide +kernel)

/-- I3: a token that matches nothing is a failure for one host, and no output for another. -/
theorem test_skipped_token :
    Restores (unaryHost true) [(0x61, [])] [0x31] State.reset (.error .tokensSkipped) ∧
    Restores (unaryHost false) [(0x61, [])] [0x31] State.reset (.ok []) :=
  have hs : StartsJob .decStart [0x31] loaded (started .decStart [.offer 0x31]) :=
    ⟨by decide, [.offer 0x31], run_afterN _ 2 (by decide +kernel)⟩
  have he : JobEnds .dec (started .decStart [.offer 0x31]) [0x31] (afterN 4 (started .decStart [.offer 0x31])) :=
    jobEnds_afterN .dec _ 3 (by decide +kernel) (by decide +kernel) (by decide +kernel)
  ⟨⟨rfl, loaded, makes_loaded, .skipped _ _ hs he (by decide +kernel) (by decide +kernel)⟩,
    ⟨rfl, loaded, makes_loaded, .delivered _ _ [] hs he (by decide +kernel) (by decide +kernel) (by decide +kernel)⟩⟩

/-- The errors: a character above 127, the empty text, a job the host aborts, a table with a duplicate code. -/
theorem witness_CompressedTextDecompressesToItself_errors :
    Compresses (unaryHost true) [128] State.reset (.error .inputRange) ∧
    Compresses (unaryHost true) [] State.reset (.error .emptyInput) ∧
    Compresses (unaryHost true) [0x61] State.reset (.error .aborted) ∧
    ¬ (lutOf [(0x61, [true]), (0x62, [true])]).Injective ∧
    Restores (unaryHost true) [(0x61, [true]), (0x62, [true])] [0x31] State.reset (.error .injectivity) := by
  refine ⟨.notCounted _ (by decide +kernel), .noSymbol (Vector.replicate 128 0) rfl (by decide +kernel),
    .encoded [(0x61, [])] loaded (.error .aborted) _ tableOf_a rfl makes_loaded ?_ rfl, ?_, rfl,
    afterN 13 (State.reset.setTurns (loadTable [(0x61, [true]), (0x62, [true])])),
    ⟨[], run_afterN _ 13 (by decide +kernel)⟩, ?_⟩
  · exact .failed (started .encStart [cmdTurn .abort]) (afterN 1 (started .encStart [cmdTurn .abort])) [] .aborted
      ⟨by decide, [cmdTurn .abort], run_afterN _ 2 (by decide +kernel)⟩
      (jobEnds_afterN .enc _ 0 (by decide +kernel) (by decide +kernel) (by decide +kernel))
      (List.nil_prefix) (by decide +kernel) (by decide +kernel)
  · intro h
    exact absurd (h 0x61 0x62 (by decide +kernel) (by decide +kernel) (by decide +kernel) (by decide +kernel)) (by decide)
  · exact .notStarted (afterN 2 ((afterN 13 (State.reset.setTurns (loadTable [(0x61, [true]), (0x62, [true])]))).setTurns
        (startJob .decStart 1))) .injectivity
      ⟨by decide, [], run_afterN _ 2 (by decide +kernel)⟩ (by decide +kernel) (by decide +kernel) (by decide +kernel)

end Sys2Proof.Tests
end

section
/-! The family of the scope (spec/00_scope.md): which step may come next, and what makes it come. -/

namespace Sys2Proof.Proofs

open Sys2Proof.Machine Sys2Proof.Laws

/-- The list of moves set last is the one that counts. -/
@[simp] theorem setTurns_setTurns (s : State) (ts ts' : List Turn) : (s.setTurns ts).setTurns ts' = s.setTurns ts' :=
  rfl

/-- No guard of a turn reads the moves still to come (R103). -/
@[simp] theorem turnGuard_setTurns (m : Turn) (s : State) (ts : List Turn) :
    turnGuard m (s.setTurns ts) = turnGuard m s := by
  cases m <;> rfl

/-- A turn whose guard holds, put before any other moves, is the next step (R3, R103). -/
theorem step_setTurns_cons {s : State} {m : Turn} (ts : List Turn) (hr : s.resetSeen = true)
    (hg : turnGuard m s = true) : step (s.setTurns (m :: ts)) = turnRun m (s.setTurns ts) := by
  have hg' : turnGuard m (s.setTurns (m :: ts)) = true := by rw [turnGuard_setTurns, hg]
  rw [step_of_turn (s := s.setTurns (m :: ts)) hr rfl hg', setTurns_setTurns]

/-- An engine step whose guard holds is the next step when the next move is the engine's (R103). -/
theorem step_setTurns_engine {s : State} {e : EngineStep} (ts : List Turn) (hr : s.resetSeen = true)
    (hg : engineGuard e s = true) :
    step (s.setTurns (.engine :: ts)) = .next (engineRun e (s.setTurns ts)) := by
  have hg' : engineGuard e (s.setTurns ts) = true := by rw [engineGuard_setTurns, hg]
  calc step (s.setTurns (.engine :: ts))
      = .next (engineTurn (s.setTurns ts)) := step_setTurns_cons ts hr rfl
    _ = .next (engineRun e (s.setTurns ts)) := by rw [engineTurn_of_guard hg']

/-- Settles O15: the enabled step's own turn, put first, makes it the next step, whatever moves follow. -/
theorem anyEnabledStepMayBeTakenNext : Obligations.AnyEnabledStepMayBeTakenNext := fun _ ts hr =>
  ⟨fun _ hg => step_setTurns_engine ts hr hg, fun _ hg => step_setTurns_cons ts hr hg⟩

end Sys2Proof.Proofs
end

section
/-! The family of the state, first part: what each engine step, each command, each register write and each step does to
the flags, the engine and the counters, said once (R91, R92, R103). -/

namespace Sys2Proof.Proofs

open Sys2Proof.Machine Sys2Proof.Laws

/-! ## Register numbers and writes -/

/-- The register number of CTRL (R23). -/
theorem regOfOffset_eq_ctrl (off : BitVec 6) : regOfOffset off = .ctrl ↔ off.extractLsb' 2 4 = 2 := by
  revert off
  decide

/-- A write of STATUS clears the flags whose bits it sets, the codes with them (R91). -/
theorem writeStatus_eq (w : Word) (s : State) : writeStatus w s = { s with
    done := s.done && !w.getLsbD 1
    err := s.err && !w.getLsbD 2
    errCode := if w.getLsbD 2 = true then .noError else s.errCode
    cmdErr := s.cmdErr && !w.getLsbD 3
    cmdCause := if w.getLsbD 3 = true then .noCause else s.cmdCause } := by
  unfold writeStatus ackCmdErr ackErr ackDone
  cases w.getLsbD 1 <;> cases w.getLsbD 2 <;> cases w.getLsbD 3 <;> simp

/-- A write of a register other than CMD acknowledges flags, or changes CTRL, IN_LEN and the staging registers only. -/
theorem writeReg_cases (r : Reg) (w : Word) (s : State) :
    (r = .status ∧ writeReg r w s = writeStatus w s) ∨
    ∃ c n l c0 c1 c2 c3, writeReg r w s = { s with
      ctrl := c, inLen := n, entLen := l, entCode0 := c0, entCode1 := c1, entCode2 := c2, entCode3 := c3 } := by
  cases r
  case status => exact .inl ⟨rfl, rfl⟩
  all_goals exact .inr ⟨_, _, _, _, _, _, _, rfl⟩

/-! ## Engine steps -/

/-- The end of a token closes it and changes at most OUT.slot and SKIP_COUNT beside (R154). -/
theorem endToken_eq (s : State) :
    ∃ o n, endToken s = { s with outSlot := o, skipCount := n, eng := s.eng.noToken } := by
  rcases endToken_cases s with ⟨k, -, -, h⟩ | ⟨-, h⟩
  · exact ⟨_, _, h⟩
  · exact ⟨_, _, h⟩

/-- A whitespace byte closes the token that is open, and changes at most OUT.slot and SKIP_COUNT beside (R155). -/
theorem endOpenToken_eq (s : State) : ∃ o n, endOpenToken s = { s with
    outSlot := o, skipCount := n, eng := if s.eng.decIntok = true then s.eng.noToken else s.eng } := by
  unfold endOpenToken
  by_cases hi : s.eng.decIntok = true
  · simpa only [if_pos hi] using endToken_eq s
  · simp only [if_neg hi]
    exact ⟨s.outSlot, s.skipCount, rfl⟩

/-- Degenerate mode's emission changes at most OUT.slot (R152). -/
theorem emitDegenerate_eq (b : Byte) (s : State) : ∃ o, emitDegenerate b s = { s with outSlot := o } := by
  unfold emitDegenerate
  split
  · exact ⟨_, rfl⟩
  · exact ⟨s.outSlot, rfl⟩

/-- E with one input byte less to come (R132, R155). -/
def oneLess (e : Engine) : Engine :=
  { e with remaining := e.remaining - 1 }

/-- E after DEC_CONSUME of the byte `b` (R155). -/
def decAfterByte (b : Byte) (e : Engine) : Engine :=
  if isWhitespace b = true then (if e.decIntok = true then (oneLess e).noToken else oneLess e)
  else (oneLess e).openToken.accumulate b

/-- DEC_CONSUME takes and counts the byte, and changes E, OUT.slot and SKIP_COUNT beside (R155). -/
theorem decConsumeByte_eq (b : Byte) (s : State) : ∃ o n, decConsumeByte b s = { s with
    inSlot := none, inCount := s.inCount + 1, outSlot := o, skipCount := n, eng := decAfterByte b s.eng } := by
  unfold decConsumeByte decAfterByte
  by_cases hw : isWhitespace b = true
  · simp only [if_pos hw]
    obtain ⟨o, n, ht⟩ := endOpenToken_eq s.countByte
    obtain ⟨o', he⟩ := emitDegenerate_eq b (endOpenToken s.countByte)
    exact ⟨o', n, by rw [he, ht]; rfl⟩
  · simp only [if_neg hw]
    exact ⟨s.outSlot, s.skipCount, rfl⟩

/-- `extend` opens the token if none is open, and changes the token alone (R154). -/
theorem openToken_accumulate_eq (b : Byte) (e : Engine) : ∃ d l a, e.openToken.accumulate b = { e with
    decIntok := true, decDead := d, decLen := l, decAcc := a } := by
  have opened : ∃ d l a, e.openToken = { e with decIntok := true, decDead := d, decLen := l, decAcc := a } := by
    unfold Engine.openToken
    split
    · rename_i hi
      exact ⟨e.decDead, e.decLen, e.decAcc, by rw [← hi]⟩
    · exact ⟨_, _, _, rfl⟩
  obtain ⟨d, l, a, ho⟩ := opened
  rw [ho]
  unfold Engine.accumulate
  split
  · exact ⟨_, _, _, rfl⟩
  · split
    · exact ⟨_, _, _, rfl⟩
    · exact ⟨_, _, _, rfl⟩

/-- DEC_CONSUME changes E.remaining and the token alone (R155). -/
theorem decAfterByte_eq (b : Byte) (e : Engine) : ∃ i d l a, decAfterByte b e = { oneLess e with
    decIntok := i, decDead := d, decLen := l, decAcc := a } := by
  unfold decAfterByte
  split
  · split
    · exact ⟨_, _, _, _, rfl⟩
    · exact ⟨_, _, _, _, rfl⟩
  · exact ⟨true, openToken_accumulate_eq b (oneLess e)⟩

/-- The characters of a token that is not dead are a value of as many bits as the token has characters (R154, R160). -/
def TokenOk (e : Engine) : Prop :=
  e.decIntok = true → e.decDead = false → 1 ≤ e.decLen.toNat ∧ e.decAcc.toNat < 2 ^ e.decLen.toNat

/-- `extend` keeps the value of a live token within its length (R154). -/
theorem tokenOk_openToken_accumulate (b : Byte) {e : Engine} (h : TokenOk e) : TokenOk (e.openToken.accumulate b) := by
  have opened : e.openToken.decDead = false → e.openToken.decAcc.toNat < 2 ^ e.openToken.decLen.toNat := by
    unfold Engine.openToken
    split
    · rename_i hi
      exact fun hd => (h hi hd).2
    · simp
  unfold Engine.accumulate
  split
  · rename_i hd
    exact fun _ hl => absurd hd (by simp [hl])
  · rename_i hd
    split
    · exact fun _ hl => by simp at hl
    · rename_i hb
      rw [not_or, not_and_or, not_not, not_not] at hb
      obtain ⟨hacc, hlen⟩ := accumulated_toNat _ _ b hb.1 hb.2 (opened (by simpa using hd))
      intro _ _
      have hbit : b.toNat - 0x30 ≤ 1 := by rcases hb.1 with rfl | rfl <;> decide
      have := opened (by simpa using hd)
      simp only [hlen, hacc, pow_succ]
      omega

/-- DEC_CONSUME keeps the value of a live token within its length (R155). -/
theorem tokenOk_decAfterByte (b : Byte) {e : Engine} (h : TokenOk e) : TokenOk (decAfterByte b e) := by
  unfold decAfterByte
  split
  · split
    · exact fun hi => by simp at hi
    · exact h
  · exact tokenOk_openToken_accumulate b h

/-! The guards of R103 as propositions. -/

theorem encConsume_guard_iff (s : State) : engineGuard .encConsume s = true ↔
    s.eng.job = .enc ∧ s.eng.encActive = false ∧ 0 < s.eng.remaining.toNat ∧ ∃ b, s.inSlot = some b := by
  simp [engineGuard, encConsumeGuard, Option.isSome_iff_exists, and_assoc]

theorem encEmitChar_guard_iff (s : State) : engineGuard .encEmitChar s = true ↔
    s.eng.job = .enc ∧ s.eng.encActive = true ∧ s.eng.encPos.toNat < s.encEntry.len.toNat ∧ s.outSlot = none := by
  simp [engineGuard, encEmitCharGuard, and_assoc]

theorem decConsume_guard_iff (s : State) : engineGuard .decConsume s = true ↔
    s.eng.job = .dec ∧ 0 < s.eng.remaining.toNat ∧ (∃ b, s.inSlot = some b) ∧ s.outSlot = none := by
  simp [engineGuard, decConsumeGuard, Option.isSome_iff_exists, and_assoc]

theorem decFlush_guard_iff (s : State) : engineGuard .decFlush s = true ↔
    s.eng.job = .dec ∧ s.eng.remaining = 0 ∧ s.eng.decIntok = true ∧ s.outSlot = none := by
  simp [engineGuard, decFlushGuard, and_assoc]

/-- An engine step is enabled only while a job runs (R103). -/
theorem running_of_guard {e : EngineStep} {s : State} (h : engineGuard e s = true) : s.eng.job ≠ .idle := by
  intro hj
  cases e <;> simp [engineGuard, encConsumeGuard, encEmitCharGuard, encEmitDelimGuard, encFinishGuard,
    decConsumeGuard, decFlushGuard, decFinishGuard, hj] at h

/-- The state in which an encode job has failed at the byte `b` (R132, R203). -/
def encFailed (c : ErrCode) (b : Byte) (s : State) : State :=
  { s with
    inSlot := none, inCount := s.inCount + 1, eng := Engine.cleared, outSlot := none
    err := true, errCode := c, errInfo := b.setWidth 32 }

/-- The state in which the encoder has opened the code of the byte `b` (R132). -/
def encOpened (b : Byte) (s : State) : State :=
  { s with
    inSlot := none, inCount := s.inCount + 1
    eng := { oneLess s.eng with encSym := b.setWidth 7, encPos := 0, encActive := true } }

/-- ENC_CONSUME takes the byte offered, and fails or opens the code of a valid row (R132). -/
theorem encConsume_cases {s : State} (hg : engineGuard .encConsume s = true) :
    ∃ b, s.inSlot = some b ∧ ((∃ c, engineRun .encConsume s = encFailed c b s) ∨
      ((s.entry (b.setWidth 7)).valid = true ∧ engineRun .encConsume s = encOpened b s)) := by
  obtain ⟨hj, -, -, b, hb⟩ := (encConsume_guard_iff s).mp hg
  have running : s.countByte.eng.job ≠ .idle := by simp [hj]
  refine ⟨b, hb, ?_⟩
  simp only [engineRun, encConsume, hb, encConsumeByte]
  split
  · exact .inl ⟨_, jobError_of_running _ _ running⟩
  · split
    · rename_i hv
      exact .inr ⟨hv, rfl⟩
    · exact .inl ⟨_, jobError_of_running _ _ running⟩

/-- DEC_CONSUME takes the byte offered (R155). -/
theorem decConsume_eq {s : State} (hg : engineGuard .decConsume s = true) :
    ∃ b o n, s.inSlot = some b ∧ engineRun .decConsume s = { s with
      inSlot := none, inCount := s.inCount + 1, outSlot := o, skipCount := n, eng := decAfterByte b s.eng } := by
  obtain ⟨-, -, ⟨b, hb⟩, -⟩ := (decConsume_guard_iff s).mp hg
  obtain ⟨o, n, h⟩ := decConsumeByte_eq b s
  exact ⟨b, o, n, hb, by simpa [engineRun, decConsume, hb] using h⟩

/-- What an engine step did: it failed at a byte, took a byte, went on without one, or finished the job. -/
inductive EngineDid (e : EngineStep) (s t : State) : Prop
  | failed (c : ErrCode) (b : Byte) (step : e = .encConsume) (offered : s.inSlot = some b) (next : t = encFailed c b s)
  | consumed (b : Byte) (o : Option Byte) (n : Word) (g : Engine) (offered : s.inSlot = some b)
      (more : 0 < s.eng.remaining.toNat)
      (next : t = { s with inSlot := none, inCount := s.inCount + 1, outSlot := o, skipCount := n, eng := g })
      (job : g.job = s.eng.job) (less : g.remaining = s.eng.remaining - 1)
  | worked (o : Option Byte) (n : Word) (g : Engine) (next : t = { s with outSlot := o, skipCount := n, eng := g })
      (job : g.job = s.eng.job) (kept : g.remaining = s.eng.remaining)
  | finished (step : e = .encFinish ∨ e = .decFinish) (next : t = finish s)

/-- Every enabled engine step is one of these (R103). -/
theorem engineRun_did {e : EngineStep} {s : State} (hg : engineGuard e s = true) : EngineDid e s (engineRun e s) := by
  cases e with
  | encConsume =>
    obtain ⟨-, -, hr, -⟩ := (encConsume_guard_iff s).mp hg
    obtain ⟨b, hb, ⟨c, h⟩ | ⟨-, h⟩⟩ := encConsume_cases hg
    · exact .failed c b rfl hb h
    · exact .consumed b _ _ _ hb hr h rfl rfl
  | encEmitChar => exact .worked _ _ _ rfl rfl rfl
  | encEmitDelim => exact .worked _ _ _ rfl rfl rfl
  | encFinish => exact .finished (.inl rfl) rfl
  | decConsume =>
    obtain ⟨-, hr, -⟩ := (decConsume_guard_iff s).mp hg
    obtain ⟨b, o, n, hb, h⟩ := decConsume_eq hg
    obtain ⟨i, d, l, a, he⟩ := decAfterByte_eq b s.eng
    exact .consumed b o n _ hb hr h (by rw [he]; rfl) (by rw [he]; rfl)
  | decFlush =>
    obtain ⟨o, n, h⟩ := endToken_eq s
    exact .worked o n _ h rfl rfl
  | decFinish => exact .finished (.inr rfl) rfl

/-! ## Commands -/

/-- The commands that begin a job or a table check (R98). -/
def StartsJob (i : Instr) : Prop :=
  i = .encStart ∨ i = .decStart ∨ i = .tblCheck

/-- The state in which a start command has failed (R205). -/
def startFailed (k : JobKind) (c : ErrCode) (w : Word) (s : State) : State :=
  { beginJob k s with err := true, errCode := c, errInfo := w }

/-- The state in which an encode job has started (R130). -/
def encStarted (s : State) : State :=
  { beginJob .encode s with
    eng := { s.eng with job := .enc, remaining := s.inLen, encActive := false, encPos := 0 } }

/-- TBL_CHECK with no job running passes or fails (R116). -/
theorem tblCheck_cases {s : State} (h : s.eng.job = .idle) :
    (∃ w, tblCheck s = startFailed .check .injectivity w s) ∨
      tblCheck s = { beginJob .check s with done := true } := by
  unfold tblCheck
  dsimp only
  split
  · exact .inl ⟨_, jobError_of_idle _ _ h⟩
  · exact .inr rfl

/-- ENC_START with no job running fails or starts an encode job (R130). -/
theorem encStart_cases {s : State} (h : s.eng.job = .idle) :
    (∃ w, encStart s = startFailed .encode .emptyInput w s) ∨ encStart s = encStarted s := by
  unfold encStart
  dsimp only
  split
  · exact .inl ⟨_, jobError_of_idle _ _ h⟩
  · exact .inr rfl

/-- DEC_START with no job running fails, or starts a decode job on an injective LUT (R150). -/
theorem decStart_cases {s : State} (h : s.eng.job = .idle) :
    (∃ w, decStart s = startFailed .decode .injectivity w s) ∨
      (s.lut.Injective ∧ decStart s = decBegin (beginJob .decode s)) := by
  unfold decStart
  dsimp only
  split
  · exact .inl ⟨_, jobError_of_idle _ _ h⟩
  · rename_i hn
    exact .inr ⟨(findDup_none_iff _).mp hn, rfl⟩

/-- The state in which a decode job has started, in degenerate mode with symbol `k` if `d` (R150, R152). -/
def decStarted (d : Bool) (k : Sym) (s : State) : State :=
  { beginJob .decode s with
    statusDegen := d
    eng := { s.eng.noToken with job := .dec, remaining := s.inLen, degen := d, degSym := k } }

/-- A decode job begins in degenerate mode exactly with the degenerate symbol of the LUT (R150, R152). -/
theorem decBegin_eq (s : State) : ∃ d k, (∀ j, (d = true ∧ k = j) ↔ s.degenerateSym = some j) ∧
    decBegin (beginJob .decode s) = decStarted d k s := by
  have same (e : Engine) : { beginJob .decode s with eng := e }.degenerateSym = s.degenerateSym := rfl
  unfold decBegin
  dsimp only
  rw [same]
  split
  · rename_i k hk
    exact ⟨true, k, fun j => by simp [hk], rfl⟩
  · rename_i hk
    exact ⟨false, s.eng.degSym, fun j => by simp [hk], rfl⟩

/-- What a command did: it left the job, its flags and its counters alone, was rejected, aborted the job, passed a table
check, failed at its start, or started a job. -/
inductive CommandDid (i : Instr) (s t : State) : Prop
  | quiet (entValid : t.entValid = s.entValid ∨ ∃ k, i = .entRead k) (eng : t.eng = s.eng)
      (outSlot : t.outSlot = s.outSlot) (inCount : t.inCount = s.inCount) (done : t.done = s.done)
      (err : t.err = s.err) (errCode : t.errCode = s.errCode) (cmdErr : t.cmdErr = s.cmdErr) (cmdCause : t.cmdCause = s.cmdCause)
  | rejected (busy : s.eng.job ≠ .idle) (notNop : i ≠ .nop) (notAbort : i ≠ .abort) (next : t = cmdError .busy s)
  | aborted (busy : s.eng.job ≠ .idle) (command : i = .abort) (next : t = { s with
      eng := Engine.cleared, outSlot := none, err := true, errCode := .aborted, errInfo := 0 })
  | checkPassed (idle : s.eng.job = .idle) (command : i = .tblCheck)
      (next : t = { beginJob .check s with done := true })
  | startFailed (k : JobKind) (c : ErrCode) (w : Word) (idle : s.eng.job = .idle) (command : StartsJob i)
      (next : t = startFailed k c w s)
  | encStarted (idle : s.eng.job = .idle) (command : i = .encStart) (next : t = encStarted s)
  | decStarted (d : Bool) (k : Sym) (idle : s.eng.job = .idle) (command : i = .decStart) (next : t = decStarted d k s)
      (injective : s.lut.Injective) (mode : ∀ j, (d = true ∧ k = j) ↔ s.degenerateSym = some j)

/-- What a command does with no job running (R92, R110 to R116, R130, R150). -/
theorem exec_did_of_idle {i : Instr} {s t : State} (h : exec i s = .next t) (hj : s.eng.job = .idle) :
    CommandDid i s t := by
  cases i <;> simp only [exec, execNop, execTblClear, execEntWrite, execEntRead, execEntInval, execTblCheck,
    execEncStart, execDecStart, execAbort, whenIdle_of_idle _ hj, Host.Outcome.next.injEq] at h <;> subst h
  case nop => exact .quiet (.inl rfl) rfl rfl rfl rfl rfl rfl rfl rfl
  case tblClear => exact .quiet (.inl rfl) rfl rfl rfl rfl rfl rfl rfl rfl
  case entWrite k => rw [entWrite_eq]; exact .quiet (.inl rfl) rfl rfl rfl rfl rfl rfl rfl rfl
  case entInval k => rw [entInval_eq]; exact .quiet (.inl rfl) rfl rfl rfl rfl rfl rfl rfl rfl
  case entRead k =>
    unfold entRead
    dsimp only
    split <;> exact .quiet (.inr ⟨k, rfl⟩) rfl rfl rfl rfl rfl rfl rfl rfl
  case abort =>
    rw [abort, if_pos hj]
    exact .quiet (.inl rfl) rfl rfl rfl rfl rfl rfl rfl rfl
  case tblCheck =>
    rcases tblCheck_cases hj with ⟨w, h⟩ | h
    · exact .startFailed _ _ _ hj (.inr (.inr rfl)) h
    · exact .checkPassed hj rfl h
  case encStart =>
    rcases encStart_cases hj with ⟨w, h⟩ | h
    · exact .startFailed _ _ _ hj (.inl rfl) h
    · exact .encStarted hj rfl h
  case decStart =>
    rcases decStart_cases hj with ⟨w, h⟩ | ⟨hi, h⟩
    · exact .startFailed _ _ _ hj (.inr (.inl rfl)) h
    · obtain ⟨d, k, mode, begun⟩ := decBegin_eq s
      exact .decStarted d k hj rfl (h.trans begun) hi mode

/-- What a command does while a job runs (R93, R96, R97). -/
theorem exec_did_of_busy {i : Instr} {s t : State} (h : exec i s = .next t) (hj : s.eng.job ≠ .idle) :
    CommandDid i s t := by
  cases i <;> simp only [exec, execNop, execTblClear, execEntWrite, execEntRead, execEntInval, execTblCheck,
    execEncStart, execDecStart, execAbort, whenIdle_of_busy _ hj, Host.Outcome.next.injEq] at h <;> subst h
  case nop => exact .quiet (.inl rfl) rfl rfl rfl rfl rfl rfl rfl rfl
  case abort => exact .aborted hj rfl (by rw [abort, if_neg hj, jobError_of_running _ _ hj])
  all_goals exact .rejected hj (by simp) (by simp) rfl

/-- Every command is one of these (R92, R93). -/
theorem exec_did {i : Instr} {s t : State} (h : exec i s = .next t) : CommandDid i s t := by
  by_cases hj : s.eng.job = .idle
  · exact exec_did_of_idle h hj
  · exact exec_did_of_busy h hj

/-! ## Steps -/

/-- The two states agree in E, the LUT, IN_COUNT and the flags, and OUT.slot holds what it held or nothing. -/
structure Quiet (s t : State) : Prop where
  eng : t.eng = s.eng
  lut : t.lut = s.lut
  tableCount : t.tableCount = s.tableCount
  outSlot : t.outSlot = s.outSlot ∨ t.outSlot = none
  inCount : t.inCount = s.inCount
  done : t.done = s.done
  err : t.err = s.err
  errCode : t.errCode = s.errCode
  cmdErr : t.cmdErr = s.cmdErr
  cmdCause : t.cmdCause = s.cmdCause
  entValid : t.entValid = s.entValid

/-- New moves to come are quiet (log 1). -/
theorem quiet_setTurns (s : State) (ts : List Turn) : Quiet s (s.setTurns ts) :=
  ⟨rfl, rfl, rfl, .inl rfl, rfl, rfl, rfl, rfl, rfl, rfl, rfl⟩

/-- A take is quiet: it empties OUT.slot and counts the byte (R95). -/
theorem quiet_hostTake (s : State) (ts : List Turn) : Quiet s (hostTake (s.setTurns ts)) := by
  rcases hostTake_cases (s.setTurns ts) with ⟨b, -, took⟩ | ⟨-, took⟩ <;> rw [took]
  · exact ⟨rfl, rfl, rfl, .inr rfl, rfl, rfl, rfl, rfl, rfl, rfl, rfl⟩
  · exact quiet_setTurns s ts

/-- `step_induction` for what speaks of the job, the flags and the LUT only: waits, reads, offers, takes and most
register writes are one case. -/
theorem step_job_induction {s t : State} (h : step s = .next t) (P : State → Prop)
    (reset : ResetIsNext s → ∀ ts, P (platformReset (s.setTurns ts)))
    (engine : ∀ ts e, EngineTakes e s (engineRun e (s.setTurns ts)) → engineGuard e (s.setTurns ts) = true →
      P (engineRun e (s.setTurns ts)))
    (quiet : ∀ u, Quiet s u → P u)
    (ack : ∀ ts w, (∀ n, w.getLsbD n = true → W1CIsNext n s) → P (writeStatus w (s.setTurns ts)))
    (reject : ∀ ts why, RejectIsNext s → P (cmdError (illegalCause why) (s.setTurns ts)))
    (command : ∀ ts i u, CommandIsNext i s → exec i (s.setTurns ts) = .next u → P u) : P t := by
  refine step_induction h P reset ?engine ?wait ?read ?write reject command ?offer ?take
  case engine => exact fun ts e takes => engine ts e takes (by rw [engineGuard_setTurns, takes.1])
  case wait => exact fun ts => quiet _ (quiet_setTurns s ts)
  case read => exact fun _ _ => quiet _ ⟨rfl, rfl, rfl, .inl rfl, rfl, rfl, rfl, rfl, rfl, rfl, rfl⟩
  case write =>
    intro ts off w hts _
    rcases writeReg_cases (regOfOffset off) w (s.setTurns ts) with
      ⟨hr, wrote⟩ | ⟨c, n, l, c0, c1, c2, c3, wrote⟩ <;> rw [wrote]
    · exact ack ts w fun n hn => ⟨off, w, _, hts, (regOfOffset_eq_status off).mp hr, hn⟩
    · exact quiet _ ⟨rfl, rfl, rfl, .inl rfl, rfl, rfl, rfl, rfl, rfl, rfl, rfl⟩
  case offer => exact fun _ _ _ => quiet _ ⟨rfl, rfl, rfl, .inl rfl, rfl, rfl, rfl, rfl, rfl, rfl, rfl⟩
  case take => exact fun ts => quiet _ (quiet_hostTake s ts)

end Sys2Proof.Proofs
end

section
/-! The family of the state, second part: the flags, ENT_LEN.VALID and the LUT, changed only by the steps the spec lists
(R32, R38, R44, R60). -/

namespace Sys2Proof.Proofs

open Sys2Proof.Machine Sys2Proof.Laws

/-! ## The flags -/

/-- What a step did to BUSY, DONE, ERR and ERRCODE: nothing, a Reset, an acknowledgement, the end of a job, or what a
command does (R44). -/
inductive FlagStep (s t : State) : Prop
  | unchanged (job : t.eng.job = s.eng.job) (done : t.done = s.done) (err : t.err = s.err)
      (code : t.errCode = s.errCode)
  | reset (next : ResetIsNext s) (job : t.eng.job = .idle) (done : t.done = false) (err : t.err = false)
      (code : t.errCode = .noError)
  | acked (w : Word) (next : ∀ n, w.getLsbD n = true → W1CIsNext n s) (job : t.eng.job = s.eng.job)
      (done : t.done = (s.done && !w.getLsbD 1)) (err : t.err = (s.err && !w.getLsbD 2))
      (code : t.errCode = if w.getLsbD 2 = true then .noError else s.errCode)
  | finished (took : EngineTakes .encFinish s t ∨ EngineTakes .decFinish s t) (busy : s.eng.job ≠ .idle)
      (job : t.eng.job = .idle) (done : t.done = true) (err : t.err = s.err) (code : t.errCode = s.errCode)
  | failed (took : EngineTakes .encConsume s t) (busy : s.eng.job ≠ .idle) (job : t.eng.job = .idle)
      (done : t.done = s.done) (err : t.err = true)
  | aborted (next : CommandIsNext .abort s) (busy : s.eng.job ≠ .idle) (job : t.eng.job = .idle)
      (done : t.done = s.done) (err : t.err = true)
  | jobStarted (idle : s.eng.job = .idle) (next : CommandIsNext .encStart s ∨ CommandIsNext .decStart s)
      (done : t.done = false) (err : t.err = false) (code : t.errCode = .noError)
  | checkPassed (idle : s.eng.job = .idle) (next : CommandIsNext .tblCheck s) (job : t.eng.job = .idle)
      (done : t.done = true) (err : t.err = false) (code : t.errCode = .noError)
  | startFailed (next : JobStartIsNext s) (job : t.eng.job = .idle) (done : t.done = false) (err : t.err = true)

/-- A start command with no job running is the next move (R98). -/
theorem jobStartIsNext {i : Instr} {s : State} (hs : StartsJob i) (hj : s.eng.job = .idle) (hc : CommandIsNext i s) :
    JobStartIsNext s := by
  rcases hs with rfl | rfl | rfl
  · exact ⟨hj, .inl hc⟩
  · exact ⟨hj, .inr (.inl hc)⟩
  · exact ⟨hj, .inr (.inr hc)⟩

/-- What an engine step does to the flags (R132, R104). -/
theorem flagStep_engine {e : EngineStep} {s : State} {ts : List Turn}
    (took : EngineTakes e s (engineRun e (s.setTurns ts)))
    (did : EngineDid e (s.setTurns ts) (engineRun e (s.setTurns ts))) :
    FlagStep s (engineRun e (s.setTurns ts)) := by
  have busy := running_of_guard took.1
  cases did with
  | failed c b he _ hn => subst he; rw [hn] at took ⊢; exact .failed took busy rfl rfl rfl
  | consumed _ _ _ _ _ _ hn job | worked _ _ _ hn job => rw [hn]; exact .unchanged job rfl rfl rfl
  | finished he hn =>
    have took : EngineTakes .encFinish s (engineRun e (s.setTurns ts)) ∨
        EngineTakes .decFinish s (engineRun e (s.setTurns ts)) := by
      rcases he with rfl | rfl
      · exact .inl took
      · exact .inr took
    rw [hn] at took ⊢
    exact .finished took busy rfl rfl rfl rfl

/-- What a command does to the flags (R93, R97, R98). -/
theorem flagStep_command {i : Instr} {s t : State} {ts : List Turn} (hc : CommandIsNext i s)
    (did : CommandDid i (s.setTurns ts) t) : FlagStep s t := by
  cases did with
  | quiet _ eng _ _ done err errCode => exact .unchanged (congrArg Engine.job eng) done err errCode
  | rejected _ _ _ hn => subst hn; exact .unchanged rfl rfl rfl rfl
  | aborted busy hi hn => subst hi hn; exact .aborted hc busy rfl rfl rfl
  | checkPassed idle hi hn => subst hi hn; exact .checkPassed idle hc idle rfl rfl rfl
  | startFailed _ _ _ idle hi hn => subst hn; exact .startFailed (jobStartIsNext hi idle hc) idle rfl rfl
  | encStarted idle hi hn => subst hi hn; exact .jobStarted idle (.inl hc) rfl rfl rfl
  | decStarted _ _ idle hi hn => subst hi hn; exact .jobStarted idle (.inr hc) rfl rfl rfl

/-- Every step does one of these to the flags (R44). -/
theorem flagStep_of_step {s t : State} (h : step s = .next t) : FlagStep s t := by
  refine step_job_induction h (FlagStep s) ?reset ?engine ?quiet ?ack ?reject ?command
  case reset => exact fun next _ => .reset next rfl rfl rfl rfl
  case engine => exact fun _ _ took hg => flagStep_engine took (engineRun_did hg)
  case quiet => exact fun _ q => .unchanged (congrArg Engine.job q.eng) q.done q.err q.errCode
  case ack => exact fun _ w next => by rw [writeStatus_eq]; exact .acked w next rfl rfl rfl rfl
  case reject => exact fun _ _ _ => .unchanged rfl rfl rfl rfl
  case command => exact fun _ _ _ hc he => flagStep_command hc (exec_did he)

/-- What a step did to CMD_ERR and CMD_CAUSE: nothing, a rejection, an acknowledgement, or a Reset (R206, R208). -/
inductive CmdErrStep (s t : State) : Prop
  | unchanged (cmdErr : t.cmdErr = s.cmdErr) (cause : t.cmdCause = s.cmdCause)
  | rejected (next : RejectIsNext s) (cmdErr : t.cmdErr = true)
  | acked (next : W1CIsNext 3 s) (cmdErr : t.cmdErr = false) (cause : t.cmdCause = .noCause)
  | reset (next : ResetIsNext s) (cmdErr : t.cmdErr = false) (cause : t.cmdCause = .noCause)

/-- A write of STATUS acknowledges CMD_ERR where it sets bit 3 (R91). -/
theorem cmdErrStep_ack {w : Word} {s : State} {ts : List Turn} (next : w.getLsbD 3 = true → W1CIsNext 3 s) :
    CmdErrStep s (writeStatus w (s.setTurns ts)) := by
  rw [writeStatus_eq]
  cases hw : w.getLsbD 3 with
  | true => exact .acked (next hw) (Bool.and_false _) rfl
  | false => exact .unchanged (Bool.and_true _) rfl

/-- A command is rejected or leaves CMD_ERR alone (R93). -/
theorem cmdErrStep_command {i : Instr} {s t : State} {ts : List Turn} (hc : CommandIsNext i s)
    (did : CommandDid i (s.setTurns ts) t) : CmdErrStep s t := by
  cases did with
  | quiet _ _ _ _ _ _ _ cmdErr cause => exact .unchanged cmdErr cause
  | rejected busy notNop notAbort hn =>
    obtain ⟨off, w, ts', hts, hoff, hd⟩ := hc
    subst hn
    exact .rejected ⟨off, w, ts', hts, hoff, .inr ⟨busy, i, hd, notNop, notAbort⟩⟩ rfl
  | aborted _ _ hn | checkPassed _ _ hn | startFailed _ _ _ _ _ hn | encStarted _ _ hn | decStarted _ _ _ _ hn =>
    subst hn
    exact .unchanged rfl rfl

/-- Every step does one of these to CMD_ERR and CMD_CAUSE (R206, R208). -/
theorem cmdErrStep_of_step {s t : State} (h : step s = .next t) : CmdErrStep s t := by
  refine step_job_induction h (CmdErrStep s) ?reset ?engine ?quiet ?ack ?reject ?command
  case reset => exact fun next _ => .reset next rfl rfl
  case engine =>
    intro ts e _ hg
    cases engineRun_did hg with
    | failed _ _ _ _ hn | consumed _ _ _ _ _ _ hn | worked _ _ _ hn | finished _ hn =>
      rw [hn]
      exact .unchanged rfl rfl
  case quiet => exact fun _ q => .unchanged q.cmdErr q.cmdCause
  case ack => exact fun _ _ next => cmdErrStep_ack (next 3)
  case reject => exact fun _ _ next => .rejected next rfl
  case command => exact fun _ _ _ hc he => cmdErrStep_command hc (exec_did he)

@[simp] theorem busy_eq_true_iff (s : State) : s.busy = true ↔ s.eng.job ≠ .idle := by simp [State.busy]
@[simp] theorem busy_eq_false_iff (s : State) : s.busy = false ↔ s.eng.job = .idle := by simp [State.busy]

/-! Each direction of each flag. The cases that are not named cannot occur: they leave the flag as it was, or move it
the other way. -/

theorem FlagStep.busy_rises {s t : State} (h : FlagStep s t) (hs : s.busy = false) (ht : t.busy = true) :
    s.eng.job = .idle ∧ (CommandIsNext .encStart s ∨ CommandIsNext .decStart s) := by
  rw [busy_eq_false_iff] at hs
  rw [busy_eq_true_iff] at ht
  cases h with
  | jobStarted _ next => exact ⟨hs, next⟩
  | _ => simp_all only [ne_eq, not_true_eq_false]

theorem FlagStep.busy_falls {s t : State} (h : FlagStep s t) (hs : s.busy = true) (ht : t.busy = false) :
    EngineTakes .encFinish s t ∨ EngineTakes .decFinish s t ∨ (EngineTakes .encConsume s t ∧ t.err = true) ∨
      CommandIsNext .abort s ∨ ResetIsNext s := by
  rw [busy_eq_true_iff] at hs
  rw [busy_eq_false_iff] at ht
  cases h with
  | finished took => exact took.imp_right .inl
  | failed took _ _ _ err => exact .inr (.inr (.inl ⟨took, err⟩))
  | aborted next => exact .inr (.inr (.inr (.inl next)))
  | reset next => exact .inr (.inr (.inr (.inr next)))
  | startFailed next => exact absurd next.1 hs
  | unchanged job | acked _ _ job => exact absurd (job ▸ ht) hs
  | jobStarted idle | checkPassed idle => exact absurd idle hs

theorem FlagStep.done_rises {s t : State} (h : FlagStep s t) (hs : s.done = false) (ht : t.done = true) :
    EngineTakes .encFinish s t ∨ EngineTakes .decFinish s t ∨ (s.eng.job = .idle ∧ CommandIsNext .tblCheck s) := by
  cases h with
  | finished took => exact took.imp_right .inl
  | checkPassed idle next => exact .inr (.inr ⟨idle, next⟩)
  | _ => simp_all only [Bool.false_and, Bool.false_eq_true]

theorem FlagStep.done_falls {s t : State} (h : FlagStep s t) (hs : s.done = true) (ht : t.done = false) :
    JobStartIsNext s ∨ W1CIsNext 1 s ∨ ResetIsNext s := by
  cases h with
  | jobStarted idle next => exact .inl ⟨idle, next.imp_right .inl⟩
  | startFailed next => exact .inl next
  | acked w next _ done => exact .inr (.inl (next 1 (by simpa [hs, ht] using done)))
  | reset next => exact .inr (.inr next)
  | _ => simp_all only [Bool.true_eq_false]

theorem FlagStep.err_rises {s t : State} (h : FlagStep s t) (hs : s.err = false) (ht : t.err = true) :
    EngineTakes .encConsume s t ∨ (s.eng.job ≠ .idle ∧ CommandIsNext .abort s) ∨ JobStartIsNext s := by
  cases h with
  | failed took => exact .inl took
  | aborted next busy => exact .inr (.inl ⟨busy, next⟩)
  | startFailed next => exact .inr (.inr next)
  | _ => simp_all only [Bool.false_and, Bool.false_eq_true]

theorem FlagStep.err_falls {s t : State} (h : FlagStep s t) (hs : s.err = true) (ht : t.err = false) :
    JobStartIsNext s ∨ W1CIsNext 2 s ∨ ResetIsNext s := by
  cases h with
  | jobStarted idle next => exact .inl ⟨idle, next.imp_right .inl⟩
  | checkPassed idle next => exact .inl ⟨idle, .inr (.inr next)⟩
  | acked w next _ _ err => exact .inr (.inl (next 2 (by simpa [hs, ht] using err)))
  | reset next => exact .inr (.inr next)
  | _ => simp_all only [Bool.true_eq_false]

theorem CmdErrStep.rises {s t : State} (h : CmdErrStep s t) (hs : s.cmdErr = false) (ht : t.cmdErr = true) :
    RejectIsNext s := by
  cases h with
  | rejected next => exact next
  | _ => simp_all only [Bool.false_eq_true]

theorem CmdErrStep.falls {s t : State} (h : CmdErrStep s t) (hs : s.cmdErr = true) (ht : t.cmdErr = false) :
    W1CIsNext 3 s ∨ ResetIsNext s := by
  cases h with
  | acked next => exact .inl next
  | reset next => exact .inr next
  | _ => simp_all only [Bool.true_eq_false]

/-- Settles O39: a flag changes only where the step's own case, of the flags or of CMD_ERR, names the change. -/
theorem flagsChangeOnlyAsListed : Obligations.FlagsChangeOnlyAsListed := by
  unfold Obligations.FlagsChangeOnlyAsListed
  intro s t h
  have flags := flagStep_of_step h
  have cmdErr := cmdErrStep_of_step h
  exact ⟨flags.busy_rises, flags.busy_falls, flags.done_rises, flags.done_falls, flags.err_rises, flags.err_falls,
    cmdErr.rises, cmdErr.falls⟩

/-! ## ENT_LEN.VALID -/

/-- Of all that a step can do, only Reset and ENT_READ touch ENT_LEN.VALID (R32). -/
theorem entValid_of_step {s t : State} (h : step s = .next t) :
    t.entValid = s.entValid ∨ ResetIsNext s ∨ ∃ k, CommandIsNext (.entRead k) s := by
  refine step_job_induction h (fun t => t.entValid = s.entValid ∨ ResetIsNext s ∨ ∃ k, CommandIsNext (.entRead k) s)
    ?reset ?engine ?quiet ?ack ?reject ?command
  case reset => exact fun next _ => .inr (.inl next)
  case engine =>
    intro ts e _ _
    obtain ⟨-, -, valid, -⟩ := engineRun_frame e (s.setTurns ts)
    exact .inl valid
  case quiet => exact fun _ q => .inl q.entValid
  case ack => exact fun _ _ _ => .inl (by rw [writeStatus_eq]; rfl)
  case reject => exact fun _ _ _ => .inl rfl
  case command =>
    intro ts i u hc he
    cases exec_did he with
    | quiet valid =>
      rcases valid with same | ⟨k, rfl⟩
      · exact .inl same
      · exact .inr (.inr ⟨k, hc⟩)
    | rejected _ _ _ hn | aborted _ _ hn | checkPassed _ _ hn | startFailed _ _ _ _ _ hn | encStarted _ _ hn
    | decStarted _ _ _ _ hn => exact .inl (by rw [hn]; rfl)

/-- Settles O40: a step that changes the bit is neither of those that leave it alone. -/
theorem entLenValidIsWrittenOnlyByEntRead : Obligations.EntLenValidIsWrittenOnlyByEntRead := by
  unfold Obligations.EntLenValidIsWrittenOnlyByEntRead
  exact fun s t h changed => (entValid_of_step h).resolve_left changed

/-! ## The LUT -/

/-- What a step did to the LUT and TABLE_COUNT: nothing, a Reset, or one of the three commands that write rows (R38,
R112). -/
inductive TableStep (s t : State) : Prop
  | unchanged (lut : t.lut = s.lut) (count : t.tableCount = s.tableCount)
  | reset (next : ResetIsNext s) (lut : t.lut = Lut.empty) (count : t.tableCount = 0)
  | cleared (idle : s.eng.job = .idle) (next : CommandIsNext .tblClear s) (lut : t.lut = Lut.empty)
      (count : t.tableCount = 0)
  | written (k : Sym) (idle : s.eng.job = .idle) (next : CommandIsNext (.entWrite k) s)
      (lut : t.lut = s.lut.set k.toNat s.stagedEntry k.isLt)
      (count : t.tableCount = if (s.entry k).valid then s.tableCount else s.tableCount + 1)
  | dropped (k : Sym) (idle : s.eng.job = .idle) (next : CommandIsNext (.entInval k) s)
      (lut : t.lut = s.lut.set k.toNat Entry.invalid k.isLt)
      (count : t.tableCount = if (s.entry k).valid then s.tableCount - 1 else s.tableCount)

/-- Every step does one of these to the LUT and TABLE_COUNT (R38, R112). -/
theorem tableStep_of_step {s t : State} (h : step s = .next t) : TableStep s t := by
  refine step_job_induction h (TableStep s) ?reset ?engine ?quiet ?ack ?reject ?command
  case reset => exact fun next _ => .reset next rfl rfl
  case engine =>
    intro ts e _ _
    obtain ⟨lut, count, -⟩ := engineRun_frame e (s.setTurns ts)
    exact .unchanged lut count
  case quiet => exact fun _ q => .unchanged q.lut q.tableCount
  case ack => exact fun _ _ _ => by rw [writeStatus_eq]; exact .unchanged rfl rfl
  case reject => exact fun _ _ _ => .unchanged rfl rfl
  case command =>
    intro ts i u hc he
    rcases exec_lut_cases he with ⟨lut, count⟩ | ⟨idle, ⟨k, rfl, rfl⟩ | ⟨k, rfl, rfl⟩ | ⟨rfl, rfl⟩⟩
    · exact .unchanged lut count
    · rw [entWrite_eq]; exact .written k idle hc rfl rfl
    · rw [entInval_eq]; exact .dropped k idle hc rfl rfl
    · exact .cleared idle hc rfl rfl

/-- Settles O38: a changed LUT is the work of Reset or of one of the three commands, no job running. -/
theorem lutChangesOnlyByTableCommands : Obligations.LutChangesOnlyByTableCommands := by
  unfold Obligations.LutChangesOnlyByTableCommands
  intro s t h hne
  cases tableStep_of_step h with
  | unchanged lut => exact absurd lut hne
  | reset next => exact .inl next
  | cleared idle next => exact .inr ⟨idle, .inr (.inr next)⟩
  | written k idle next => exact .inr ⟨idle, .inl ⟨k, next⟩⟩
  | dropped k idle next => exact .inr ⟨idle, .inr (.inl ⟨k, next⟩)⟩

/-- Settles O36: a step that changes the LUT is Reset or is taken with no job running. -/
theorem lutIsFixedWhileAJobRuns : Obligations.LutIsFixedWhileAJobRuns := by
  unfold Obligations.LutIsFixedWhileAJobRuns
  intro s t h busy noReset
  by_contra hne
  rcases lutChangesOnlyByTableCommands s t h hne with ⟨ts, hts⟩ | ⟨idle, -⟩
  · exact noReset ts hts
  · exact busy idle

end Sys2Proof.Proofs
end

section
/-! The family of the state, third part: the invariants of R47 and State.Inv, kept by every step. They fall into four
parts, about the LUT, the job's flags, CMD_ERR and the engine, each a predicate on the values it reads, so that a step
that leaves those values alone keeps the part. -/

namespace Sys2Proof.Proofs

open Sys2Proof.Machine Sys2Proof.Laws

/-! ## The four parts -/

/-- A row: its code has no bit from its length on, and an invalid row holds zeros (R47, R38). -/
structure RowOk (e : Entry) : Prop where
  codeBelowLen : ∀ i : Nat, e.len.toNat ≤ i → e.code.getLsbD i = false
  invalidZero : e.valid = false → e = Entry.invalid

/-- The LUT and TABLE_COUNT (R47 (a), (f)). -/
structure TableOk (lut : Lut) (count : BitVec 8) : Prop where
  counts : count.toNat = (validSyms lut).length
  rows : ∀ k : Sym, RowOk (lutAt lut k)

/-- DONE, ERR and ERRCODE, and the kind of job that runs (R47 (d), (e), R98). -/
structure FlagsOk (job : Job) (done err : Bool) (code : ErrCode) : Prop where
  neverBoth : ¬(done = true ∧ err = true)
  codeOnlyWithErr : err = false → code = .noError
  runningUnflagged : job ≠ .idle → done = false ∧ err = false

/-- CMD_ERR and CMD_CAUSE (R47 (e)). -/
def CauseOk (cmdErr : Bool) (cause : CmdCause) : Prop :=
  cmdErr = false → cause = .noCause

/-- E, with the LUT, OUT.slot and IN_COUNT beside it (R47 (c), (g), (h), R99, R150, R152, R154, R30). -/
structure EngineOk (e : Engine) (lut : Lut) (out : Option Byte) (inCount : Word) : Prop where
  outSlotOnlyBusy : out ≠ none → e.job ≠ .idle
  idleCleared : e.job = .idle → e = Engine.cleared
  encActiveRow : e.encActive = true →
    e.job = .enc ∧ (lutAt lut e.encSym).valid = true ∧ e.encPos.toNat ≤ (lutAt lut e.encSym).len.toNat
  decInjective : e.job = .dec → lut.Injective
  degenMode : e.job = .dec → ∀ k, (e.degen = true ∧ e.degSym = k) ↔ lut.DegenerateAt k
  degenOnlyDec : e.degen = true → e.job = .dec
  tokenOnlyDec : e.decIntok = true → e.job = .dec
  liveToken : TokenOk e
  countsFit : e.job ≠ .idle → inCount.toNat + e.remaining.toNat < 2 ^ 32

/-- The invariants of a state are the four parts. -/
theorem inv_iff (s : State) : s.Inv ↔
    TableOk s.lut s.tableCount ∧ FlagsOk s.eng.job s.done s.err s.errCode ∧ CauseOk s.cmdErr s.cmdCause ∧
      EngineOk s.eng s.lut s.outSlot s.inCount := by
  constructor
  · intro h
    refine ⟨⟨h.tableCountIsValidRows, fun k => ⟨h.codeBelowLen k, h.invalidRowsZero k⟩⟩,
      ⟨h.doneErrNeverBoth, h.errCodeOnlyWithErr, h.runningUnflagged⟩, h.causeOnlyWithCmdErr, ?_⟩
    exact {
      outSlotOnlyBusy := h.outSlotOnlyBusy
      idleCleared := h.idleCleared
      encActiveRow := h.encActiveRow
      decInjective := h.decInjective
      degenMode := h.degenMode
      degenOnlyDec := h.degenOnlyDec
      tokenOnlyDec := h.tokenOnlyDec
      liveToken := h.liveToken
      countsFit := h.countsFit }
  · rintro ⟨table, flags, cause, engine⟩
    exact {
      tableCountIsValidRows := table.counts
      busyIffJob := statusWord_busy s
      outSlotOnlyBusy := engine.outSlotOnlyBusy
      doneErrNeverBoth := flags.neverBoth
      errCodeOnlyWithErr := flags.codeOnlyWithErr
      causeOnlyWithCmdErr := cause
      codeBelowLen := fun k => (table.rows k).codeBelowLen
      encActiveRow := engine.encActiveRow
      idleNothingOpen := fun hj => by rw [engine.idleCleared hj]; exact ⟨rfl, rfl⟩
      idleCleared := engine.idleCleared
      runningUnflagged := flags.runningUnflagged
      decInjective := engine.decInjective
      degenMode := engine.degenMode
      degenOnlyDec := engine.degenOnlyDec
      liveToken := engine.liveToken
      countsFit := engine.countsFit
      tokenOnlyDec := engine.tokenOnlyDec
      invalidRowsZero := fun k => (table.rows k).invalidZero }

/-! ## The LUT -/

theorem rowOk_invalid : RowOk Entry.invalid where
  codeBelowLen _ _ := BitVec.getLsbD_zero
  invalidZero _ := rfl

/-- ENT_WRITE masks the code to its length (R72, R111). -/
theorem rowOk_stagedEntry (s : State) : RowOk s.stagedEntry where
  codeBelowLen i hi := by
    have hi : s.entLen.toNat ≤ i := hi
    simp [State.stagedEntry, codeMask_getLsbD, hi]
  invalidZero hv := by simp [State.stagedEntry] at hv

theorem tableOk_empty : TableOk Lut.empty 0 where
  counts := by simp
  rows k := by rw [lutAt_empty]; exact rowOk_invalid

/-- Writing a good row with the count that goes with it keeps the LUT good (R112). -/
theorem TableOk.set {lut : Lut} {n n' : BitVec 8} (h : TableOk lut n) (k : Sym) {e : Entry} (he : RowOk e)
    (hn : n'.toNat + (lutAt lut k).valid.toNat = n.toNat + e.valid.toNat) :
    TableOk (lut.set k.toNat e k.isLt) n' where
  counts := by
    have := validSyms_length_set lut k e
    have := h.counts
    omega
  rows j := by
    rw [lutAt_set]
    split
    · exact he
    · exact h.rows j

/-- A valid row is among those TABLE_COUNT counts. -/
theorem TableOk.count_pos {lut : Lut} {n : BitVec 8} (h : TableOk lut n) {k : Sym} (hv : (lutAt lut k).valid = true) :
    0 < n.toNat := by
  rw [h.counts]
  exact List.length_pos_of_mem ((mem_validSyms lut k).mpr hv)

/-- TABLE_COUNT never passes 128 (R112). -/
theorem TableOk.count_le {lut : Lut} {n : BitVec 8} (h : TableOk lut n) : n.toNat ≤ 128 := by
  rw [h.counts]
  exact validSyms_length_le lut

theorem tableOk_of_step {s t : State} (h : TableOk s.lut s.tableCount) (hs : TableStep s t) :
    TableOk t.lut t.tableCount := by
  cases hs with
  | unchanged lut count => rw [lut, count]; exact h
  | reset _ lut count => rw [lut, count]; exact tableOk_empty
  | cleared _ _ lut count => rw [lut, count]; exact tableOk_empty
  | written k _ _ lut count =>
    rw [lut, count]
    refine h.set k (rowOk_stagedEntry s) ?_
    have le := h.count_le
    change _ + (s.entry k).valid.toNat = _ + true.toNat
    cases (s.entry k).valid with
    | true => rfl
    | false => simp; omega
  | dropped k _ _ lut count =>
    rw [lut, count]
    refine h.set k rowOk_invalid ?_
    change _ + (s.entry k).valid.toNat = _ + false.toNat
    cases hv : (s.entry k).valid with
    | true =>
      have pos := h.count_pos hv
      simp
      bv_omega
    | false => rfl

/-! ## The flags -/

/-- With no job running only ERR's own conditions are left. -/
theorem flagsOk_idle {done err : Bool} {code : ErrCode} (both : ¬(done = true ∧ err = true))
    (codeOnlyWithErr : err = false → code = .noError) : FlagsOk .idle done err code :=
  ⟨both, codeOnlyWithErr, fun hj => absurd rfl hj⟩

theorem flagsOk_of_step {s t : State} (h : FlagsOk s.eng.job s.done s.err s.errCode) (hs : FlagStep s t) :
    FlagsOk t.eng.job t.done t.err t.errCode := by
  cases hs with
  | unchanged job done err code => rw [job, done, err, code]; exact h
  | reset _ job done err code => rw [job, done, err, code]; exact flagsOk_idle (by simp) (fun _ => rfl)
  | acked w _ job done err code =>
    rw [job, done, err, code]
    refine ⟨?_, ?_, fun hj => by simp [h.runningUnflagged hj]⟩
    · have := h.neverBoth
      simp only [Bool.and_eq_true]
      tauto
    · cases w.getLsbD 2 with
      | true => exact fun _ => rfl
      | false => simpa using h.codeOnlyWithErr
  | finished _ busy job done err code =>
    obtain ⟨-, noErr⟩ := h.runningUnflagged busy
    rw [job, done, err, code]
    exact flagsOk_idle (by simp [noErr]) h.codeOnlyWithErr
  | failed _ busy job done err =>
    rw [job, done, err, (h.runningUnflagged busy).1]
    exact flagsOk_idle (by simp) (by simp)
  | aborted _ busy job done err =>
    rw [job, done, err, (h.runningUnflagged busy).1]
    exact flagsOk_idle (by simp) (by simp)
  | jobStarted _ _ done err code => rw [done, err, code]; exact ⟨by simp, fun _ => rfl, fun _ => ⟨rfl, rfl⟩⟩
  | checkPassed _ _ job done err code => rw [job, done, err, code]; exact flagsOk_idle (by simp) (fun _ => rfl)
  | startFailed _ job done err => rw [job, done, err]; exact flagsOk_idle (by simp) (by simp)

theorem causeOk_of_step {s t : State} (h : CauseOk s.cmdErr s.cmdCause) (hs : CmdErrStep s t) :
    CauseOk t.cmdErr t.cmdCause := by
  cases hs with
  | unchanged cmdErr cause => rw [cmdErr, cause]; exact h
  | rejected _ cmdErr => exact fun hf => by rw [cmdErr] at hf; cases hf
  | acked _ _ cause | reset _ _ cause => exact fun _ => cause

/-! ## The engine -/

/-- E cleared and OUT.slot empty, whatever the LUT (R99). -/
theorem engineOk_cleared (lut : Lut) (n : Word) : EngineOk Engine.cleared lut none n where
  outSlotOnlyBusy h := absurd rfl h
  idleCleared _ := rfl
  encActiveRow h := by cases h
  decInjective h := by cases h
  degenMode h := by cases h
  degenOnlyDec h := by cases h
  tokenOnlyDec h := by cases h
  liveToken h := by cases h
  countsFit h := absurd rfl h

/-- With no job running E is cleared and OUT.slot empty (R47 (c), (h), R99). -/
theorem EngineOk.of_idle {e : Engine} {lut : Lut} {out : Option Byte} {n : Word} (h : EngineOk e lut out n)
    (hj : e.job = .idle) : e = Engine.cleared ∧ out = none :=
  ⟨h.idleCleared hj, by_contra fun ho => h.outSlotOnlyBusy ho hj⟩

/-- A byte counted: IN_COUNT and E.remaining make the same sum as before (R30). -/
theorem count_one {n r : Word} (hr : 0 < r.toNat) (hs : n.toNat + r.toNat < 2 ^ 32) :
    (n + 1).toNat = n.toNat + 1 ∧ (n + 1).toNat + (r - 1).toNat = n.toNat + r.toNat := by
  bv_omega

/-- ENC_CONSUME of a byte whose row is valid (R132). -/
theorem engineOk_encOpened {s : State} (h : EngineOk s.eng s.lut s.outSlot s.inCount) {b : Byte}
    (hj : s.eng.job = .enc) (hr : 0 < s.eng.remaining.toNat) (hv : (s.entry (b.setWidth 7)).valid = true) :
    EngineOk (encOpened b s).eng s.lut s.outSlot (s.inCount + 1) :=
  { h with
    idleCleared := fun hi => absurd (hj.symm.trans hi) (by decide)
    encActiveRow := fun _ => ⟨hj, hv, Nat.zero_le _⟩
    countsFit := fun busy => (count_one hr (h.countsFit busy)).2.trans_lt (h.countsFit busy) }

/-- ENC_EMIT_CHAR: the position stays within the row's length (R134, R47 (g)). -/
theorem engineOk_encEmitChar {s : State} (h : EngineOk s.eng s.lut s.outSlot s.inCount)
    (hg : engineGuard .encEmitChar s = true) (out : Option Byte) :
    EngineOk { s.eng with encPos := s.eng.encPos + 1 } s.lut out s.inCount := by
  obtain ⟨hj, -, hpos, -⟩ := (encEmitChar_guard_iff s).mp hg
  exact { h with
    outSlotOnlyBusy := fun _ => running_of_guard hg
    idleCleared := fun hi => absurd hi (running_of_guard hg)
    encActiveRow := fun ha => by
      obtain ⟨-, valid, -⟩ := h.encActiveRow ha
      have hlen := s.encEntry.len.isLt
      have next : (s.eng.encPos + 1).toNat = s.eng.encPos.toNat + 1 := by bv_omega
      exact ⟨hj, valid, next.trans_le hpos⟩ }

/-- ENC_EMIT_DELIM closes the code (R135). -/
theorem engineOk_encEmitDelim {s : State} (h : EngineOk s.eng s.lut s.outSlot s.inCount) (busy : s.eng.job ≠ .idle)
    (out : Option Byte) : EngineOk { s.eng with encActive := false, encPos := 0 } s.lut out s.inCount :=
  { h with
    outSlotOnlyBusy := fun _ => busy
    idleCleared := fun hi => absurd hi busy
    encActiveRow := fun ha => by cases ha }

/-- A decode step changes the token alone, which keeps its bounds (R154). -/
theorem EngineOk.setToken {e : Engine} {lut : Lut} {out : Option Byte} {n : Word} (h : EngineOk e lut out n)
    (hj : e.job = .dec) {i d : Bool} {l : CodeLen} {a : Code}
    (ht : TokenOk { e with decIntok := i, decDead := d, decLen := l, decAcc := a }) (out' : Option Byte) :
    EngineOk { e with decIntok := i, decDead := d, decLen := l, decAcc := a } lut out' n :=
  { h with
    outSlotOnlyBusy := fun _ hi => absurd (hj.symm.trans hi) (by decide)
    idleCleared := fun hi => absurd (hj.symm.trans hi) (by decide)
    tokenOnlyDec := fun _ => hj
    liveToken := ht }

/-- A byte counted, nothing else done with it (R155). -/
theorem EngineOk.oneLess {e : Engine} {lut : Lut} {out : Option Byte} {n : Word} (h : EngineOk e lut out n)
    (hj : e.job ≠ .idle) (hr : 0 < e.remaining.toNat) : EngineOk (oneLess e) lut out (n + 1) :=
  { h with
    idleCleared := fun hi => absurd hi hj
    countsFit := fun busy => (count_one hr (h.countsFit busy)).2.trans_lt (h.countsFit busy) }

/-- Every enabled engine step keeps the engine's part. -/
theorem engineOk_engineRun {e : EngineStep} {s : State} (hg : engineGuard e s = true)
    (h : EngineOk s.eng s.lut s.outSlot s.inCount) :
    EngineOk (engineRun e s).eng (engineRun e s).lut (engineRun e s).outSlot (engineRun e s).inCount := by
  have busy := running_of_guard hg
  cases e with
  | encConsume =>
    obtain ⟨hj, -, hr, -⟩ := (encConsume_guard_iff s).mp hg
    obtain ⟨b, -, ⟨c, next⟩ | ⟨valid, next⟩⟩ := encConsume_cases hg <;> rw [next]
    · exact engineOk_cleared _ _
    · exact engineOk_encOpened h hj hr valid
  | encEmitChar => exact engineOk_encEmitChar h hg _
  | encEmitDelim => exact engineOk_encEmitDelim h busy _
  | encFinish | decFinish => exact engineOk_cleared _ _
  | decConsume =>
    obtain ⟨hj, hr, -⟩ := (decConsume_guard_iff s).mp hg
    obtain ⟨b, o, n, -, next⟩ := decConsume_eq hg
    obtain ⟨i, d, l, a, token⟩ := decAfterByte_eq b s.eng
    have live := tokenOk_decAfterByte b h.liveToken
    rw [token] at live
    rw [next, token]
    exact (h.oneLess busy hr).setToken hj live o
  | decFlush =>
    obtain ⟨hj, -⟩ := (decFlush_guard_iff s).mp hg
    obtain ⟨o, n, next⟩ := endToken_eq s
    change engineRun .decFlush s = _ at next
    rw [next]
    exact h.setToken hj (fun hi => by cases hi) o

/-- A job has started: a decode job on an injective LUT, in degenerate mode or not as the LUT says; no other job is in
degenerate mode (R130, R150, R152). -/
theorem engineOk_started {lut : Lut} {job : Job} (n : Word) {d : Bool} {k : Sym} (busy : job ≠ .idle)
    (injective : job = .dec → lut.Injective) (mode : job = .dec → ∀ j, (d = true ∧ k = j) ↔ lut.DegenerateAt j)
    (degen : d = true → job = .dec) :
    EngineOk { Engine.cleared with job := job, remaining := n, degen := d, degSym := k } lut none 0 where
  outSlotOnlyBusy _ := busy
  idleCleared h := absurd h busy
  encActiveRow h := by cases h
  decInjective := injective
  degenMode := mode
  degenOnlyDec := degen
  tokenOnlyDec h := by cases h
  liveToken h := by cases h
  countsFit _ := by simpa using n.isLt

/-- Every command keeps the engine's part. -/
theorem engineOk_exec {i : Instr} {s t : State} (h : exec i s = .next t) (table : TableOk s.lut s.tableCount)
    (engine : EngineOk s.eng s.lut s.outSlot s.inCount) : EngineOk t.eng t.lut t.outSlot t.inCount := by
  cases exec_did h with
  | quiet _ eng outSlot inCount =>
    rw [eng, outSlot, inCount]
    rcases exec_lut_cases h with ⟨lut, -⟩ | ⟨idle, -⟩
    · rw [lut]; exact engine
    · obtain ⟨cleared, empty⟩ := engine.of_idle idle
      rw [cleared, empty]
      exact engineOk_cleared _ _
  | rejected _ _ _ hn => subst hn; exact engine
  | aborted _ _ hn => subst hn; exact engineOk_cleared _ _
  | checkPassed idle _ hn | startFailed _ _ _ idle _ hn =>
    obtain ⟨cleared, empty⟩ := engine.of_idle idle
    subst hn
    change EngineOk s.eng s.lut s.outSlot 0
    rw [cleared, empty]
    exact engineOk_cleared _ _
  | encStarted idle _ hn =>
    obtain ⟨cleared, empty⟩ := engine.of_idle idle
    subst hn
    change EngineOk { s.eng with job := .enc, remaining := s.inLen, encActive := false, encPos := 0 } s.lut s.outSlot 0
    rw [cleared, empty]
    exact engineOk_started _ (by decide) (fun hd => by cases hd) (fun hd => by cases hd) (fun hd => by cases hd)
  | decStarted d k idle _ hn injective mode =>
    obtain ⟨cleared, empty⟩ := engine.of_idle idle
    subst hn
    change EngineOk { s.eng.noToken with job := .dec, remaining := s.inLen, degen := d, degSym := k } s.lut s.outSlot 0
    rw [cleared, empty]
    exact engineOk_started _ (by decide) (fun _ => injective)
      (fun _ j => (mode j).trans (degenerateSym_iff table.counts j)) (fun _ => rfl)

/-- Every step keeps the engine's part. -/
theorem engineOk_of_step {s t : State} (h : step s = .next t) (table : TableOk s.lut s.tableCount)
    (engine : EngineOk s.eng s.lut s.outSlot s.inCount) : EngineOk t.eng t.lut t.outSlot t.inCount := by
  refine step_job_induction h (fun t => EngineOk t.eng t.lut t.outSlot t.inCount)
    ?reset ?engine ?quiet ?ack ?reject ?command
  case reset => exact fun _ _ => engineOk_cleared _ _
  case engine => exact fun _ _ _ hg => engineOk_engineRun hg engine
  case quiet =>
    intro u q
    rw [q.eng, q.lut, q.inCount]
    rcases q.outSlot with same | empty
    · rw [same]; exact engine
    · rw [empty]; exact { engine with outSlotOnlyBusy := fun full => absurd rfl full }
  case ack => exact fun _ _ _ => by rw [writeStatus_eq]; exact engine
  case reject => exact fun _ _ _ => engine
  case command => exact fun _ _ _ _ he => engineOk_exec he table engine

/-! ## The invariants -/

/-- Settles O35: each of the four parts is kept by what a step does to the values it reads. -/
theorem stepKeepsInvariants : Obligations.StepKeepsInvariants := by
  unfold Obligations.StepKeepsInvariants
  intro s t hi h
  obtain ⟨table, flags, cause, engine⟩ := (inv_iff s).mp hi
  exact (inv_iff t).mpr ⟨tableOk_of_step table (tableStep_of_step h), flagsOk_of_step flags (flagStep_of_step h),
    causeOk_of_step cause (cmdErrStep_of_step h), engineOk_of_step h table engine⟩

/-- Settles O34: at reset the LUT is empty, no flag stands and E is cleared. -/
theorem resetSatisfiesInvariants : Obligations.ResetSatisfiesInvariants := by
  unfold Obligations.ResetSatisfiesInvariants
  exact (inv_iff _).mpr ⟨tableOk_empty, ⟨by decide, fun _ => rfl, fun h => absurd rfl h⟩, fun _ => rfl,
    engineOk_cleared _ _⟩

/-! ## A job's counters -/

/-- A job of this kind that runs (R39). -/
theorem jobRun_job {kind : Job} {s t : State} {bs : List Byte} (h : JobRun kind s bs t) : t.eng.job = kind := by
  cases h with
  | start hs => exact hs
  | more _ _ _ _ _ hu => exact hu

/-- The invariants hold all along a job (R47). -/
theorem jobRun_inv {kind : Job} {s t : State} {bs : List Byte} (hi : s.Inv) (h : JobRun kind s bs t) : t.Inv := by
  induction h with
  | start => exact hi
  | more _ _ _ _ ht _ ih => exact stepKeepsInvariants _ _ ih ht

/-- What a step of a job that goes on did to the counters: it counted the byte it took, or nothing (R30). -/
def CountsByte (s t : State) : Prop :=
  (t.inCount = s.inCount ∧ t.eng.remaining = s.eng.remaining) ∨
  ∃ b, s.inSlot = some b ∧ 0 < s.eng.remaining.toNat ∧ t.inCount = s.inCount + 1 ∧
    t.eng.remaining = s.eng.remaining - 1

/-- A step between two states in which a job runs counts the byte it took, or takes none (R30, R39). -/
theorem countsByte_of_step {s t : State} (h : step s = .next t) (busy : s.eng.job ≠ .idle) :
    t.eng.job ≠ .idle → CountsByte s t := by
  refine step_job_induction h (fun t => t.eng.job ≠ .idle → CountsByte s t)
    ?reset ?engine ?quiet ?ack ?reject ?command
  case reset => exact fun _ _ runs => absurd rfl runs
  case engine =>
    intro ts e _ hg runs
    cases engineRun_did hg with
    | failed _ _ _ _ hn | finished _ hn => exact absurd (by rw [hn]; rfl) runs
    | consumed b _ _ _ offered more hn _ less => rw [hn]; exact .inr ⟨b, offered, more, rfl, less⟩
    | worked _ _ _ hn _ kept => rw [hn]; exact .inl ⟨rfl, kept⟩
  case quiet => exact fun _ q _ => .inl ⟨q.inCount, congrArg Engine.remaining q.eng⟩
  case ack => exact fun _ _ _ _ => by rw [writeStatus_eq]; exact .inl ⟨rfl, rfl⟩
  case reject => exact fun _ _ _ _ => .inl ⟨rfl, rfl⟩
  case command =>
    intro ts i u _ he runs
    cases exec_did he with
    | quiet _ eng _ inCount => exact .inl ⟨inCount, congrArg Engine.remaining eng⟩
    | rejected _ _ _ hn => subst hn; exact .inl ⟨rfl, rfl⟩
    | aborted _ _ hn => subst hn; exact absurd rfl runs
    | checkPassed idle | startFailed _ _ _ idle | encStarted idle | decStarted _ _ idle => exact absurd idle busy

/-- A counted byte is the one consumed, and moves the sum of the counters not at all (R30). -/
theorem CountsByte.sums {s t : State} (h : CountsByte s t)
    (fits : s.inCount.toNat + s.eng.remaining.toNat < 2 ^ 32) :
    t.inCount.toNat = s.inCount.toNat + (consumed s t).length ∧
      t.inCount.toNat + t.eng.remaining.toNat = s.inCount.toNat + s.eng.remaining.toNat := by
  rcases h with ⟨count, remaining⟩ | ⟨b, offered, more, count, remaining⟩
  · simp [consumed, count, remaining]
  · obtain ⟨one, sum⟩ := count_one more fits
    have moved : t.inCount ≠ s.inCount := fun same => by rw [← count, same] at one; omega
    rw [count, remaining]
    exact ⟨by rw [one, consumed, if_neg moved, offered]; rfl, sum⟩

/-- Settles O44, by induction on the run of the job: every step keeps the sum of the counters, and IN_COUNT follows the
bytes consumed. -/
theorem inCountAndRemainingMakeTheJobLength : Obligations.InCountAndRemainingMakeTheJobLength := by
  unfold Obligations.InCountAndRemainingMakeTheJobLength
  intro kind s t bs _ hk started run
  induction run with
  | start => simp [started.nothingConsumed]
  | more bs t u run ht hu ih =>
    obtain ⟨count, sum⟩ := ih
    have fits : t.inCount.toNat + t.eng.remaining.toNat < 2 ^ 32 := sum ▸ s.eng.remaining.isLt
    have busy : t.eng.job ≠ .idle := jobRun_job run ▸ hk
    obtain ⟨count', sum'⟩ := (countsByte_of_step ht busy (hu ▸ hk)).sums fits
    exact ⟨by rw [count', count, List.length_append], sum'.trans sum⟩

end Sys2Proof.Proofs
end

section
/-! The family of the state, fourth part: a CMD write, the fields of STATUS, Reset's values and the interrupt line. -/

namespace Sys2Proof.Proofs

open Sys2Proof.Machine Sys2Proof.Laws

/-- A register write, as the host's next move, is the step (R91). -/
theorem step_regWrite {s : State} {off : BitVec 6} {w : Word} {ts : List Turn} (hr : s.resetSeen = true)
    (hts : s.host.turns = .regWrite off w :: ts) : step s = regWrite off w (s.setTurns ts) :=
  step_of_turn hr hts rfl

/-- Settles O5: the write goes to CMD, whose word dispatch decodes. -/
theorem stepRunsTheDecodedCommand : Obligations.StepRunsTheDecodedCommand := by
  unfold Obligations.StepRunsTheDecodedCommand
  intro s off w ts i hr hts hoff hd
  rw [step_regWrite hr hts, regWrite, if_pos ((regOfOffset_eq_cmd off).mpr hoff), dispatch, hd]

/-! ## STATUS -/

/-- Settles O9: bit by bit, since the fields do not overlap. -/
theorem statusFieldsAtTheirBits : Obligations.StatusFieldsAtTheirBits := by
  unfold Obligations.StatusFieldsAtTheirBits
  refine ⟨fun s => ⟨statusWord_busy s, ?done, ?err, ?cmdErr, ?errCode, ?job, ?degen, ?bit11, ?cause, ?top⟩,
    by decide, by decide, by decide⟩
  case done | err | cmdErr | degen | bit11 => simp [State.statusWord, bitAt]
  case errCode | job | cause | top =>
    apply BitVec.eq_of_getLsbD_eq
    intro i hi
    interval_cases i <;> simp [State.statusWord, bitAt]

/-! ## Reset -/

/-- What a register reads after Reset is R46's value: Reset's own state differs in nothing a register shows. -/
theorem readReg_platformReset (s : State) (r : Reg) : (platformReset s).readReg r = State.reset.readReg r := by
  cases r <;> rfl

/-- Every register but ID and PARAM reads 0 in the reset state (R46). -/
theorem readReg_reset (r : Reg) (hid : r ≠ .id) (hparam : r ≠ .param) : State.reset.readReg r = 0 := by
  cases r
  case id => exact absurd rfl hid
  case param => exact absurd rfl hparam
  all_goals decide

/-- A Reset, as the next move, is the step, whether or not one was seen before (R230, R232). -/
theorem step_reset {s : State} {ts : List Turn} (hts : s.host.turns = .reset :: ts) :
    step s = .next (platformReset (s.setTurns ts)) := by
  by_cases hr : s.resetSeen = true
  · exact step_of_turn hr hts rfl
  · simp [step, hr, powerUpStep, hts]

/-- Settles O11: the step is Reset, whose state shows R46's values. -/
theorem resetGivesEveryResetValue : Obligations.ResetGivesEveryResetValue := by
  unfold Obligations.ResetGivesEveryResetValue
  intro s ts hts
  refine ⟨_, step_reset hts, rfl, rfl, rfl, fun r hid hparam => ?_, fun k => ?_, rfl, rfl, rfl, rfl, rfl⟩
  · rw [readReg_platformReset, readReg_reset r hid hparam]
  · exact lutAt_empty k

/-! ## The interrupt line -/

/-- irq is the OR of the enabled pending flags (R43). -/
theorem irq_iff (s : State) : s.irq = true ↔
    (s.done = true ∧ s.ctrl.getLsbD 0 = true) ∨ (s.err = true ∧ s.ctrl.getLsbD 1 = true) ∨
    (s.cmdErr = true ∧ s.ctrl.getLsbD 2 = true) := by
  simp [State.irq, State.ieDone, State.ieErr, State.ieCmd, or_assoc]

/-- A write of CTRL, as the host's next move, stores the three enables (R91). -/
theorem step_write_ctrl {s : State} {off : BitVec 6} {w : Word} {ts : List Turn} (hr : s.resetSeen = true)
    (hts : s.host.turns = .regWrite off w :: ts) (hoff : off.extractLsb' 2 4 = 2) :
    step s = .next { s.setTurns ts with ctrl := w.setWidth 3 } := by
  rw [step_regWrite hr hts, regWrite, (regOfOffset_eq_ctrl off).mpr hoff]
  rfl

/-- Settles O43: irq is a function of the flags and CTRL, so a write of CTRL shows in it at once. -/
theorem irqIsEnabledPendingFlags : Obligations.IrqIsEnabledPendingFlags := by
  unfold Obligations.IrqIsEnabledPendingFlags
  refine ⟨rfl, irq_iff, ?_⟩
  intro s t off w ts hr hts hoff h
  obtain rfl : { s.setTurns ts with ctrl := w.setWidth 3 } = t := by simpa [step_write_ctrl hr hts hoff] using h
  simpa using irq_iff { s.setTurns ts with ctrl := w.setWidth 3 }

end Sys2Proof.Proofs
end

section
/-! The family of the encoding (spec/30_encoding.md), first part: the decoder tests OP and then the reserved bits, and
what it accepts is each command's own word (R71, R73, R74, R80, R81). -/

namespace Sys2Proof.Proofs

open Sys2Proof.Laws

/-! ## Fields -/

/-- An illegal OP is one of the seven values of R74 (1). -/
theorem opLegal_eq_false_iff (f : FormatC) :
    f.opLegal = false ↔ f.op ∈ [0x6#4, 0x7#4, 0xA#4, 0xB#4, 0xC#4, 0xD#4, 0xE#4] := by
  rw [FormatC.opLegal, Bool.not_eq_false', List.contains_iff_mem]

/-- The OP values that are not illegal are those of the nine commands (R73, R74 (1)). -/
theorem opLegal_iff (f : FormatC) : f.opLegal = true ↔ ∃ i, opcode i = f.op := by
  constructor
  · intro legal
    have ops : ∀ op : BitVec 4, op ∉ [0x6#4, 0x7#4, 0xA#4, 0xB#4, 0xC#4, 0xD#4, 0xE#4] →
        op ∈ [Instr.nop, .tblClear, .entWrite 0, .entRead 0, .entInval 0, .tblCheck, .encStart, .decStart, .abort].map
          opcode := by decide
    obtain ⟨i, -, hi⟩ := List.mem_map.mp (ops f.op fun illegal => by
      simp [(opLegal_eq_false_iff f).mpr illegal] at legal)
    exact ⟨i, hi⟩
  · rintro ⟨i, hi⟩
    rw [FormatC.opLegal, ← hi]
    cases i <;> rfl

/-- The command with its operand, where it has one, replaced (R72). -/
def withSym (k : Sym) : Instr → Instr
  | .entWrite _ => .entWrite k
  | .entRead _  => .entRead k
  | .entInval _ => .entInval k
  | i           => i

/-- Fields with a command's OP and clear reserved bits are that command's, with the symbol they hold (R71, R74). -/
theorem fields_withSym {f : FormatC} {i : Instr} (hop : f.op = opcode i) (clear : f.reservedClear = true) :
    (withSym f.sym i).fields = f := by
  obtain ⟨op, rsv0, sym, rsv1⟩ := f
  obtain rfl : op = opcode i := hop
  cases i <;> simp [FormatC.reservedClear, FormatC.symIsOperand, opcode] at clear <;>
    simp [withSym, Instr.fields, symField, opcode, clear]

/-- A command's reserved bits are clear (R71). -/
theorem fields_reservedClear (i : Instr) : i.fields.reservedClear = true := by
  cases i <;> rfl

/-! ## The opcode map -/

/-- A row whose SYM must be 0 tests the reserved bits (R74 (2)). -/
theorem decodePlain_eq {f : FormatC} (i : Instr) (h : f.symIsOperand = false) :
    decodePlain f i = if f.reservedClear then .command i else .illegal .reservedBits := by
  simp [decodePlain, FormatC.reservedClear, h, and_assoc]

/-- A row with an operand tests the reserved bits, and any SYM will do (R72, R74 (2)). -/
theorem decodeWithSym_eq {f : FormatC} (i : Sym → Instr) (h : f.symIsOperand = true) :
    decodeWithSym f i = if f.reservedClear then .command (i f.sym) else .illegal .reservedBits := by
  simp [decodeWithSym, FormatC.reservedClear, h]

/-- An illegal OP is rejected whatever the other fields (R74 (1)). -/
theorem decodeFields_of_illegal_op {f : FormatC} (h : f.opLegal = false) : decodeFields f = .illegal .illegalOp := by
  obtain ⟨op, rsv0, sym, rsv1⟩ := f
  simp only [opLegal_eq_false_iff, List.mem_cons, List.not_mem_nil, or_false] at h
  rcases h with rfl | rfl | rfl | rfl | rfl | rfl | rfl <;> rfl

/-- Fields with a command's OP decode to it, with their symbol, if the reserved bits are clear (R73, R74 (2)). -/
theorem decodeFields_of_opcode {f : FormatC} {i : Instr} (hop : f.op = opcode i) :
    decodeFields f = if f.reservedClear then .command (withSym f.sym i) else .illegal .reservedBits := by
  obtain ⟨op, rsv0, sym, rsv1⟩ := f
  obtain rfl : op = opcode i := hop
  cases i
  case entWrite => exact decodeWithSym_eq .entWrite rfl
  case entRead => exact decodeWithSym_eq .entRead rfl
  case entInval => exact decodeWithSym_eq .entInval rfl
  all_goals exact decodePlain_eq _ rfl

/-- What the decoder makes of fields: an illegal OP, then reserved bits that are not clear, then a command whose fields
they are (R74, R81). -/
theorem decodeFields_cases (f : FormatC) :
    (f.opLegal = false ∧ decodeFields f = .illegal .illegalOp) ∨
    (f.opLegal = true ∧ f.reservedClear = false ∧ decodeFields f = .illegal .reservedBits) ∨
    (f.opLegal = true ∧ f.reservedClear = true ∧ ∃ i : Instr, i.fields = f ∧ decodeFields f = .command i) := by
  cases legal : f.opLegal with
  | false => exact .inl ⟨rfl, decodeFields_of_illegal_op legal⟩
  | true =>
    obtain ⟨i, hi⟩ := (opLegal_iff f).mp legal
    have decoded := decodeFields_of_opcode hi.symm
    cases clear : f.reservedClear with
    | false => exact .inr (.inl ⟨rfl, rfl, by simpa [clear] using decoded⟩)
    | true => exact .inr (.inr ⟨rfl, rfl, _, fields_withSym hi.symm clear, by simpa [clear] using decoded⟩)

/-! ## Words -/

/-- Decoding reads back every command with its operand (R73, R81). -/
@[simp] theorem decode_encode (i : Instr) : decode (encode i) = .command i := by
  rw [decode, encode, fieldsOfWord_word, decodeFields_of_opcode (i := i) rfl, if_pos (fields_reservedClear i)]
  cases i <;> rfl

/-- A word that decodes to a command is that command's own word (R81). -/
theorem eq_encode_of_decode {w : Word} {i : Instr} (h : decode w = .command i) : w = encode i := by
  rw [decode] at h
  rcases decodeFields_cases (fieldsOfWord w) with ⟨-, hd⟩ | ⟨-, -, hd⟩ | ⟨-, -, j, hj, hd⟩ <;> rw [hd] at h
  · cases h
  · cases h
  · cases h
    rw [encode, hj, word_fieldsOfWord]

/-- Settles O2: the decoder reads back a command's fields, and the fields it accepts are a command's. -/
theorem decodeAcceptsExactlyTheEncodings : Obligations.DecodeAcceptsExactlyTheEncodings := by
  unfold Obligations.DecodeAcceptsExactlyTheEncodings
  exact ⟨decode_encode, fun _ _ => eq_encode_of_decode⟩

/-- OP is one of the seven illegal values, as a number (R74 (1)). -/
theorem fieldsOfWord_opLegal_eq_false_iff (w : Word) : (fieldsOfWord w).opLegal = false ↔
    (w.extractLsb' 0 4).toNat ∈ [0x6, 0x7, 0xA, 0xB, 0xC, 0xD, 0xE] := by
  simp [opLegal_eq_false_iff, fieldsOfWord, ← BitVec.toNat_inj]

/-- The reserved bits are not clear: RSV0, RSV1, or SYM where it is no operand (R74 (2)). -/
theorem fieldsOfWord_reservedClear_eq_false_iff (w : Word) : (fieldsOfWord w).reservedClear = false ↔
    w.extractLsb' 4 4 ≠ 0 ∨ w.extractLsb' 15 17 ≠ 0 ∨
      ((w.extractLsb' 0 4).toNat ∉ [0x2, 0x3, 0x4] ∧ w.extractLsb' 8 7 ≠ 0) := by
  have operand : (fieldsOfWord w).symIsOperand = true ↔ (w.extractLsb' 0 4).toNat ∈ [0x2, 0x3, 0x4] := by
    simp [FormatC.symIsOperand, fieldsOfWord, ← BitVec.toNat_inj]
  rw [← operand, FormatC.reservedClear]
  cases (fieldsOfWord w).symIsOperand <;> simp [fieldsOfWord, imp_iff_not_or, or_assoc]

/-- Settles O3: the three answers of the decoder exclude each other, so each is given exactly in its own case. -/
theorem decodeRejectsByOpThenReservedBits : Obligations.DecodeRejectsByOpThenReservedBits := by
  unfold Obligations.DecodeRejectsByOpThenReservedBits
  intro w
  rw [← fieldsOfWord_opLegal_eq_false_iff, ← fieldsOfWord_reservedClear_eq_false_iff, FormatC.wf, decode]
  rcases decodeFields_cases (fieldsOfWord w) with ⟨legal, hd⟩ | ⟨legal, clear, hd⟩ | ⟨legal, clear, i, -, hd⟩
  · simp [legal, hd]
  · simp [legal, clear, hd]
  · simp [legal, clear, hd]

/-- Settles O1: the reserved fields of a command are 0 and add nothing to its word; the examples are R80's. -/
theorem commandWordIsOpAndShiftedSym : Obligations.CommandWordIsOpAndShiftedSym := by
  unfold Obligations.CommandWordIsOpAndShiftedSym
  exact ⟨fun i => by simp [encode, FormatC.word, Instr.fields], by decide, by decide, by decide⟩

/-- Settles O4: sixteen words, each run through the decoder. -/
theorem sampleWordsDecode : Obligations.SampleWordsDecode := by
  unfold Obligations.SampleWordsDecode
  decide

end Sys2Proof.Proofs
end

section
/-! The family of the encoding (spec/30_encoding.md), second part: what the host's moves LOADENT, LOADCODE and the
whole load do to the block, no job running (R13, R79, R111, R188). -/

namespace Sys2Proof.Proofs

open Sys2Proof.Machine Sys2Proof.Laws Sys2Proof.Reference

/-! ## Code strings -/

/-- One more character doubles the value and adds its bit (R13). -/
theorem codeValue_concat (c : List Bool) (b : Bool) : codeValue (c ++ [b]) = Nat.bit b (codeValue c) := by
  simp [codeValue, Nat.bit_val]

/-- The bits of the value are the characters, the last one lowest (R13). -/
theorem codeValue_testBit (c : List Bool) (i : Nat) (h : i < c.length) :
    (codeValue c).testBit i = c.reverse[i]'(by simpa using h) := by
  induction c using List.reverseRecOn generalizing i with
  | nil => simp at h
  | append_singleton c b ih =>
    cases i with
    | zero => simp [codeValue_concat]
    | succ i => simpa [codeValue_concat, Nat.testBit_bit_succ] using ih i (by simpa using h)

/-- The characters of a loaded row are the code string, where its length fits LEN (R13, R111). -/
theorem rowOf_bits {c : List Bool} (h : c.length ≤ 127) : (rowOf c).bits = c := by
  have len : (rowOf c).len.toNat = c.length := by simp [rowOf]; omega
  apply List.ext_getElem
  · simp [Entry.bits, len]
  · intro i hi hc
    have bit : (rowOf c).code.getLsbD (c.length - 1 - i) = (codeValue c).testBit (c.length - 1 - i) := by
      have below : c.length - 1 - i < (BitVec.ofNat 7 c.length).toNat := by
        change _ < (rowOf c).len.toNat
        omega
      have stored : c.length - 1 - i < 127 := by omega
      rw [rowOf, codeMask_getLsbD, BitVec.getLsbD_ofNat]
      simp only [below, stored, decide_true, Bool.true_and, Bool.and_true]
    simp only [Entry.bits, List.getElem_map, List.getElem_range, len, bit]
    rw [codeValue_testBit c _ (by omega), List.getElem_reverse]
    congr 1
    omega

/-! ## Moves -/

/-- A move that is next and may be made, and the run after it (R103). -/
theorem run_turn {s t : State} {m : Turn} {ts : List Turn} {n : Nat} {r : Host.Outcome State Fault Refusal}
    (hr : s.resetSeen = true) (hts : s.host.turns = m :: ts) (hg : turnGuard m s = true)
    (hm : turnRun m (s.setTurns ts) = .next t) (h : core.run n t = r) : core.run (n + 1) s = r := by
  rw [Nat.add_comm]
  exact (run_add core (run_one ((step_of_turn hr hts hg).trans hm))).trans h

/-- The host's move that issues a command runs it (R78, R92). -/
theorem turnRun_cmdTurn (i : Instr) (s : State) : turnRun (cmdTurn i) s = exec i s := by
  have cmd : regOfOffset cmdOffset = .cmd := by decide
  rw [cmdTurn, turnRun, regWrite, if_pos cmd, dispatch, decode_encode]

/-- A write of a register other than CMD does not read the moves still to come. -/
theorem writeReg_setTurns (r : Reg) (w : Word) (s : State) (ts : List Turn) :
    writeReg r w (s.setTurns ts) = (writeReg r w s).setTurns ts := by
  cases r
  case status => simp only [writeReg, writeStatus_eq]; rfl
  all_goals rfl

/-- A register write leaves alone whether a reset was seen (R232). -/
theorem writeReg_resetSeen (r : Reg) (w : Word) (s : State) : (writeReg r w s).resetSeen = s.resetSeen := by
  cases r
  case status => simp only [writeReg, writeStatus_eq]
  all_goals rfl

/-- Register writes one after another, none of CMD, each an offset and a word. -/
def writeRegs (ws : List (BitVec 6 × Word)) (s : State) : State :=
  ws.foldl (fun s p => writeReg (regOfOffset p.1) p.2 s) s

/-- The host's moves that make these register writes. -/
def writeTurns (ws : List (BitVec 6 × Word)) : List Turn :=
  ws.map fun p => .regWrite p.1 p.2

/-- Such moves, when they are next, make the writes and leave the moves after them (R91). -/
theorem run_writeTurns {ws : List (BitVec 6 × Word)} (hc : ∀ p ∈ ws, regOfOffset p.1 ≠ .cmd) {s : State}
    (ts : List Turn) (hr : s.resetSeen = true) :
    core.run ws.length (s.setTurns (writeTurns ws ++ ts)) = .next ((writeRegs ws s).setTurns ts) := by
  induction ws generalizing s with
  | nil => rfl
  | cons p ws ih =>
    obtain ⟨first, rest⟩ := List.forall_mem_cons.mp hc
    have write : turnRun (.regWrite p.1 p.2) (s.setTurns (writeTurns ws ++ ts)) =
        .next ((writeReg (regOfOffset p.1) p.2 s).setTurns (writeTurns ws ++ ts)) := by
      rw [turnRun, regWrite, if_neg first, writeReg_setTurns]
    exact run_turn hr rfl rfl write (ih rest ((writeReg_resetSeen ..).trans hr))

/-! ## LOADENT and LOADCODE -/

/-- The state with the length and the code value staged (R32, R33). -/
def staged (len : CodeLen) (v : BitVec 128) (s : State) : State :=
  ({ s with entLen := len }).setStageCode v

/-- The register writes of LOADENT (R79). -/
def stagingWrites (len : CodeLen) (v : BitVec 128) : List (BitVec 6 × Word) :=
  [(0x20, len.setWidth 32), (0x24, v.extractLsb' 0 32), (0x28, v.extractLsb' 32 32), (0x2C, v.extractLsb' 64 32),
    (0x30, v.extractLsb' 96 32)]

/-- They stage the length and the code value (R32, R33). -/
theorem writeRegs_stagingWrites (len : CodeLen) (v : BitVec 128) (s : State) :
    writeRegs (stagingWrites len v) s = staged len v s := by
  have low : (len.setWidth 32).setWidth 7 = len := by simp
  have regs : regOfOffset 0x20 = .entLen ∧ regOfOffset 0x24 = .entCode0 ∧ regOfOffset 0x28 = .entCode1 ∧
      regOfOffset 0x2C = .entCode2 ∧ regOfOffset 0x30 = .entCode3 := by decide
  simp only [writeRegs, stagingWrites, List.foldl, regs, writeReg, low, staged, State.setStageCode]

/-- LOADENT stages the row and writes it (R79, R111). -/
theorem run_loadEnt {s : State} (k : Sym) (len : CodeLen) (v : BitVec 128) (ts : List Turn) (hr : s.resetSeen = true)
    (idle : s.eng.job = .idle) :
    core.run 6 (s.setTurns (loadEnt k len v ++ ts)) = .next (entWrite k ((staged len v s).setTurns ts)) := by
  have noCmd : ∀ p ∈ stagingWrites len v, regOfOffset p.1 ≠ .cmd := by
    simp only [stagingWrites, List.forall_mem_cons, List.not_mem_nil, false_imp_iff, implies_true, and_true]
    decide
  have stage : core.run 5 (s.setTurns (loadEnt k len v ++ ts)) =
      .next ((staged len v s).setTurns (cmdTurn (.entWrite k) :: ts)) := by
    rw [← writeRegs_stagingWrites]
    exact run_writeTurns noCmd (cmdTurn (.entWrite k) :: ts) hr
  have write : turnRun (cmdTurn (.entWrite k)) ((staged len v s).setTurns ts) =
      .next (entWrite k ((staged len v s).setTurns ts)) := by
    have still : ((staged len v s).setTurns ts).eng.job = .idle := idle
    rw [turnRun_cmdTurn, exec, execEntWrite, whenIdle_of_idle _ still]
  have still : (staged len v s).resetSeen = true := hr
  exact (run_add core stage).trans (run_one ((step_setTurns_cons ts still rfl).trans write))

/-- The row that LOADCODE stages is the one of its string (R79, R13, R111). -/
theorem stagedEntry_loadCode (c : List Bool) (s : State) :
    (staged (BitVec.ofNat 7 c.length) (BitVec.ofNat 128 (codeValue c)) s).stagedEntry = rowOf c := by
  have low : (BitVec.ofNat 128 (codeValue c)).extractLsb' 0 127 = BitVec.ofNat 127 (codeValue c) := by
    apply BitVec.eq_of_toNat_eq
    simp [BitVec.extractLsb'_toNat]
  rw [State.stagedEntry, staged, stageCode_setStageCode, low]
  rfl

/-! ## The frame -/

/-- The state with the LUT, TABLE_COUNT and the staging registers of another. -/
def withTableOf (t s : State) : State :=
  { s with
    lut := t.lut, tableCount := t.tableCount, entLen := t.entLen, entCode0 := t.entCode0
    entCode1 := t.entCode1, entCode2 := t.entCode2, entCode3 := t.entCode3 }

/-- LOADCODE writes its string's row, and else changes at most TABLE_COUNT and the staging registers (R79, R111). -/
theorem run_loadCode {s : State} (k : Sym) (c : List Bool) (ts : List Turn) (hr : s.resetSeen = true)
    (idle : s.eng.job = .idle) :
    ∃ u : State, core.run 6 (s.setTurns (loadCode k c ++ ts)) = .next u ∧ u = withTableOf u (s.setTurns ts) ∧
      u.lut = s.lut.set k.toNat (rowOf c) k.isLt := by
  refine ⟨_, run_loadEnt k _ _ ts hr idle, ?_, ?_⟩
  · rw [entWrite_eq]
    rfl
  · rw [entWrite_eq, ← stagedEntry_loadCode c s]
    rfl

/-! ## The whole load -/

/-- A run keeps what every step keeps of the LUT and TABLE_COUNT (R47 (a), R112). -/
theorem tableOk_of_run {n : Nat} {s t : State} (h : core.run n s = .next t) (ok : TableOk s.lut s.tableCount) :
    TableOk t.lut t.tableCount := by
  induction n generalizing s with
  | zero =>
    obtain rfl : s = t := Host.Outcome.next.inj h
    exact ok
  | succ n ih =>
    cases hs : step s with
    | next u => exact ih (by simpa [Host.Core.run, core, hs] using h) (tableOk_of_step ok (tableStep_of_step hs))
    | fault r => cases r
    | refused r => simp [Host.Core.run, core, hs] at h

/-- The entry loaded last is the row written last (R188). -/
theorem lutOf_concat (table : SymbolTable) (p : Sym × List Bool) :
    lutOf (table ++ [p]) = (lutOf table).set p.1.toNat (rowOf p.2) p.1.isLt := by
  simp [lutOf]

/-- The moves of one more entry come last (R188). -/
theorem loadTable_concat (table : SymbolTable) (p : Sym × List Bool) :
    loadTable (table ++ [p]) = loadTable table ++ loadCode p.1 p.2 := by
  simp [loadTable]

/-- The valid rows of a loaded table are those of its keys (R188). -/
theorem lutOf_valid_iff (table : SymbolTable) (k : Sym) :
    (lutAt (lutOf table) k).valid = true ↔ k ∈ table.map Prod.fst := by
  induction table using List.reverseRecOn with
  | nil => simp [lutOf, Entry.invalid]
  | append_singleton table p ih =>
    rw [lutOf_concat, lutAt_set, List.map_append, List.mem_append, ← ih]
    by_cases h : k = p.1 <;> simp [h, rowOf]

/-- A loaded table has one valid row for each of its keys (R188, R34). -/
theorem validSyms_lutOf_length (table : SymbolTable) :
    (validSyms (lutOf table)).length = (table.map Prod.fst).dedup.length := by
  refine List.Perm.length_eq ((List.perm_ext_iff_of_nodup (validSyms_nodup _) (List.nodup_dedup _)).mpr fun k => ?_)
  rw [mem_validSyms, lutOf_valid_iff, List.mem_dedup]

/-- TBL_CLEAR and every LOADCODE make the LUT of the whole table, with its count (R188, R110). -/
theorem run_loadTable {s : State} (table : SymbolTable) (hr : s.resetSeen = true) (idle : s.eng.job = .idle) :
    ∀ ts, ∃ u : State, core.run (loadTable table).length (s.setTurns (loadTable table ++ ts)) = .next u ∧
      u = withTableOf u (s.setTurns ts) ∧ u.lut = lutOf table ∧ TableOk u.lut u.tableCount := by
  induction table using List.reverseRecOn with
  | nil =>
    intro ts
    have clear : turnRun (cmdTurn .tblClear) (s.setTurns ts) = .next (tblClear (s.setTurns ts)) := by
      have still : (s.setTurns ts).eng.job = .idle := idle
      rw [turnRun_cmdTurn, exec, execTblClear, whenIdle_of_idle _ still]
    exact ⟨_, run_one ((step_setTurns_cons ts hr rfl).trans clear), rfl, rfl, tableOk_empty⟩
  | append_singleton table p ih =>
    intro ts
    obtain ⟨u, hu, frame, lut, ok⟩ := ih (loadCode p.1 p.2 ++ ts)
    have turns : u.setTurns (loadCode p.1 p.2 ++ ts) = u := by rw [frame]; rfl
    have seen : u.resetSeen = true := (congrArg State.resetSeen frame).trans hr
    have still : u.eng.job = .idle := (congrArg (fun s => s.eng.job) frame).trans idle
    obtain ⟨v, hv, frame', lut'⟩ := run_loadCode p.1 p.2 ts seen still
    rw [turns] at hv
    refine ⟨v, ?_, ?_, ?_, tableOk_of_run hv ok⟩
    · rw [loadTable_concat, List.length_append, List.append_assoc]
      exact (run_add core hu).trans hv
    · exact frame'.trans (congrArg (fun s => withTableOf v (s.setTurns ts)) frame)
    · rw [lut', lut, lutOf_concat]

/-- Settles O58: LOADCODE writes the row of its string, and the load is TBL_CLEAR and LOADCODEs one after another. -/
theorem loadCodeWritesTheRow : Obligations.LoadCodeWritesTheRow := by
  unfold Obligations.LoadCodeWritesTheRow
  constructor
  · intro s k c hr idle
    obtain ⟨u, hu, frame, lut⟩ := run_loadCode k c [] hr idle
    have row : u.entry k = rowOf c := by rw [State.entry, lut, lutAt_set_self]
    rw [List.append_nil] at hu
    refine ⟨u, hu, congrArg (fun s => s.host.turns) frame, row, fun short => ?_, fun j hj => ?_⟩
    · rw [row]
      exact ⟨rfl, rowOf_bits short⟩
    · rw [State.entry, lut, lutAt_set_ne _ _ hj, State.entry]
  · intro s table hr idle
    obtain ⟨u, hu, frame, lut, ok⟩ := run_loadTable table hr idle []
    rw [List.append_nil] at hu
    exact ⟨u, hu, frame, lut, by rw [ok.counts, lut, validSyms_lutOf_length]⟩

end Sys2Proof.Proofs
end

section
/-! The family of the register port, first part: which engine step a state allows, and what a step is (R14, R103). -/

namespace Sys2Proof.Proofs

open Sys2Proof.Machine Sys2Proof.Laws

/-! ## Guards: what is missing of R103's table, as propositions -/

/-- ENC_EMIT_DELIM: all characters of the code are out (R135). -/
theorem encEmitDelim_guard_iff (s : State) : engineGuard .encEmitDelim s = true ↔
    s.eng.job = .enc ∧ s.eng.encActive = true ∧ s.eng.encPos.toNat = s.encEntry.len.toNat ∧ s.outSlot = none := by
  simp [engineGuard, encEmitDelimGuard, and_assoc]

/-- ENC_FINISH: no code open and no input left (R136). -/
theorem encFinish_guard_iff (s : State) : engineGuard .encFinish s = true ↔
    s.eng.job = .enc ∧ s.eng.encActive = false ∧ s.eng.remaining = 0 ∧ s.outSlot = none := by
  simp [engineGuard, encFinishGuard, and_assoc]

/-- DEC_FINISH: no token open and no input left (R159). -/
theorem decFinish_guard_iff (s : State) : engineGuard .decFinish s = true ↔
    s.eng.job = .dec ∧ s.eng.remaining = 0 ∧ s.eng.decIntok = false ∧ s.outSlot = none := by
  simp [engineGuard, decFinishGuard, and_assoc]

/-- The one engine step that the engine's own state leaves possible, whatever the slots hold (R103). With no job running it
names a step whose guard is false. -/
def stepInTurn (s : State) : EngineStep :=
  if s.eng.job = .enc then
    if s.eng.encActive = true then
      if s.eng.encPos.toNat < s.encEntry.len.toNat then .encEmitChar else .encEmitDelim
    else if s.eng.remaining = 0 then .encFinish else .encConsume
  else if s.eng.remaining = 0 then
    if s.eng.decIntok = true then .decFlush else .decFinish
  else .decConsume

/-- A step whose guard holds is the one in turn (R103). -/
theorem eq_stepInTurn_of_guard {e : EngineStep} {s : State} (h : engineGuard e s = true) : e = stepInTurn s := by
  have notZero : 0 < s.eng.remaining.toNat → ¬s.eng.remaining = 0#32 := by
    rintro pos zero
    simp [zero] at pos
  cases e with
  | encConsume =>
    obtain ⟨job, closed, left, -⟩ := (encConsume_guard_iff s).mp h
    simp [stepInTurn, job, closed, notZero left]
  | encEmitChar =>
    obtain ⟨job, opened, more, -⟩ := (encEmitChar_guard_iff s).mp h
    simp [stepInTurn, job, opened, more]
  | encEmitDelim =>
    obtain ⟨job, opened, last, -⟩ := (encEmitDelim_guard_iff s).mp h
    simp [stepInTurn, job, opened, last]
  | encFinish =>
    obtain ⟨job, closed, left, -⟩ := (encFinish_guard_iff s).mp h
    simp [stepInTurn, job, closed, left]
  | decConsume =>
    obtain ⟨job, left, -⟩ := (decConsume_guard_iff s).mp h
    simp [stepInTurn, job, notZero left]
  | decFlush =>
    obtain ⟨job, left, token, -⟩ := (decFlush_guard_iff s).mp h
    simp [stepInTurn, job, left, token]
  | decFinish =>
    obtain ⟨job, left, token, -⟩ := (decFinish_guard_iff s).mp h
    simp [stepInTurn, job, left, token]

/-- Settles O13: each guard is its row of the table, and a step whose guard holds is the one in turn. -/
theorem engineGuardsAsTabulatedAndExclusive : Obligations.EngineGuardsAsTabulatedAndExclusive := by
  unfold Obligations.EngineGuardsAsTabulatedAndExclusive
  refine ⟨fun s => ⟨?encConsume, encEmitChar_guard_iff s, encEmitDelim_guard_iff s, encFinish_guard_iff s, ?decConsume,
    decFlush_guard_iff s, decFinish_guard_iff s⟩, fun s e e' h h' => ?exclusive⟩
  case encConsume =>
    rw [Option.ne_none_iff_exists']
    exact encConsume_guard_iff s
  case decConsume =>
    rw [Option.ne_none_iff_exists']
    exact decConsume_guard_iff s
  case exclusive => rw [eq_stepInTurn_of_guard h, eq_stepInTurn_of_guard h']

/-! ## What a step is -/

/-- After the first reset a step is the host's or the platform's next move, or a turn of the engine (R103, log 1). -/
theorem step_cases_of_reset {s t : State} (hr : s.resetSeen = true) (h : step s = .next t) :
    (∃ m ts, s.host.turns = m :: ts ∧ m ≠ .engine ∧ turnGuard m s = true ∧ turnRun m (s.setTurns ts) = .next t) ∨
    ∃ ts, (ts = s.host.turns ∨ s.host.turns = .engine :: ts) ∧ t = engineTurn (s.setTurns ts) := by
  rcases step_cases h with ⟨unseen, -⟩ | ⟨-, ht⟩ | ⟨-, m, ts, hts, hg, run⟩
  · simp [hr] at unseen
  · exact .inr ⟨s.host.turns, .inl rfl, ht⟩
  · by_cases hm : m = .engine
    · subst hm
      exact .inr ⟨ts, .inr hts, by simpa [turnRun] using run.symm⟩
    · exact .inl ⟨m, ts, hts, hm, hg, run⟩

/-- Settles O14: a turn of the engine is its enabled step, or a wait where no step is enabled. -/
theorem everyStepIsOneEnabledStepOrAWait : Obligations.EveryStepIsOneEnabledStepOrAWait := by
  unfold Obligations.EveryStepIsOneEnabledStepOrAWait
  intro s t hr h
  rcases step_cases_of_reset hr h with move | ⟨ts, hts, rfl⟩
  · exact .inl move
  · rcases engineTurn_cases (s.setTurns ts) with ⟨e, hg, run⟩ | ⟨disabled, wait⟩
    · exact .inr (.inl ⟨e, ts, hts, by simpa using hg, run⟩)
    · exact .inr (.inr ⟨ts, hts, by simpa using disabled, wait⟩)

/-! ## The stream ports -/

/-- A move whose guard is false stays next, and the engine moves (R14, log 1). -/
theorem step_of_blocked {s : State} {m : Turn} {ts : List Turn} (hr : s.resetSeen = true)
    (hts : s.host.turns = m :: ts) (hg : turnGuard m s = false) : step s = .next (engineTurn s) := by
  simp [step, hr, liveStep, hts, hg]

/-- A take of the byte held (R95). -/
theorem hostTake_of_held {s : State} {b : Byte} (h : s.outSlot = some b) : hostTake s = { s with
    outSlot := none, outCount := s.outCount + 1, host := { s.host with taken := s.host.taken ++ [b] } } := by
  rw [hostTake, h]

/-- Settles O10: the slot decides whether the host's move is enabled, and so whether it is the step. -/
theorem offerAndTakeOnePortByte : Obligations.OfferAndTakeOnePortByte := by
  unfold Obligations.OfferAndTakeOnePortByte
  refine fun s ts hr => ⟨?offer, ?take, ?blockedOffer, ?blockedTake⟩
  case offer =>
    intro b hts empty
    exact step_of_turn hr hts (by simp [turnGuard, empty])
  case take =>
    intro b hts held
    have run : hostTake (s.setTurns ts) = _ := hostTake_of_held held
    rw [step_of_turn hr hts (by simp [turnGuard, held]), turnRun, run]
    rfl
  case blockedOffer =>
    intro b c hts full
    exact step_of_blocked hr hts (by simp [turnGuard, full])
  case blockedTake =>
    intro hts empty
    exact step_of_blocked hr hts (by simp [turnGuard, empty])

end Sys2Proof.Proofs
end

section
/-! The family of the register port, second part: the register reads and writes (R90, R91), and the commands that are
accepted while a job runs (R92, R93, R96, R97). -/

namespace Sys2Proof.Proofs

open Sys2Proof.Machine Sys2Proof.Laws

/-! ## Register reads -/

/-- The sixteen registers in the order of their numbers (R23). -/
def allRegs : List Reg :=
  [.id, .param, .ctrl, .cmd, .status, .inLen, .inCount, .outCount, .entLen, .entCode0, .entCode1, .entCode2, .entCode3,
    .tableCount, .errInfo, .skipCount]

/-- The register at a byte offset is the one of the number off[5:2] (R23, R52). -/
theorem allRegs_getElem? (off : BitVec 6) : allRegs[(off.extractLsb' 2 4).toNat]? = some (regOfOffset off) := by
  revert off
  decide

/-- No register shows the moves still to come. -/
@[simp] theorem readReg_setTurns (s : State) (ts : List Turn) (r : Reg) : (s.setTurns ts).readReg r = s.readReg r := by
  cases r <;> rfl

/-- Settles O8: the values stand in the order of the registers' numbers, and a read picks its own. -/
theorem registerReadValues : Obligations.RegisterReadValues := by
  unfold Obligations.RegisterReadValues
  intro s off ts hr hts
  have value : (allRegs.map s.readReg)[(off.extractLsb' 2 4).toNat]? = some (s.readReg (regOfOffset off)) := by
    rw [List.getElem?_map, allRegs_getElem?, Option.map_some]
  have read : step s = .next (regRead off (s.setTurns ts)) := step_of_turn hr hts rfl
  refine ⟨s.readReg (regOfOffset off), ?_, value⟩
  rw [read, regRead, readReg_setTurns]
  rfl

/-! ## Register writes -/

/-- The registers but CMD that a write leaves as they are (R91). -/
def readOnlyRegs : List Reg :=
  [.id, .param, .inCount, .outCount, .tableCount, .errInfo, .skipCount]

/-- The numbers of the registers that a write leaves as they are (R23, R91). -/
theorem regOfOffset_mem_readOnlyRegs (off : BitVec 6) : regOfOffset off ∈ readOnlyRegs ↔
    (off.extractLsb' 2 4).toNat ∈ [0x0, 0x1, 0x6, 0x7, 0xD, 0xE, 0xF] := by
  revert off
  decide

/-- A write to one of those changes nothing (R91). -/
theorem writeReg_of_readOnly {r : Reg} (h : r ∈ readOnlyRegs) (w : Word) (s : State) : writeReg r w s = s := by
  cases r
  case id | param | inCount | outCount | tableCount | errInfo | skipCount => rfl
  all_goals simp [readOnlyRegs] at h

/-- A write of the register of number `n`, not CMD's, as the host's next move, is the step (R52, R91). -/
theorem step_writeReg {s : State} {off : BitVec 6} {w : Word} {ts : List Turn} {n : BitVec 4} (hr : s.resetSeen = true)
    (hts : s.host.turns = .regWrite off w :: ts) (hoff : off.extractLsb' 2 4 = n) (hc : regOfNumber n ≠ .cmd) :
    step s = .next (writeReg (regOfNumber n) w (s.setTurns ts)) := by
  subst hoff
  rw [step_regWrite hr hts, regWrite, regOfOffset, if_neg hc]

/-- A write of CMD, as the host's next move, dispatches its word (R91, R92). -/
theorem step_writeCmd {s : State} {off : BitVec 6} {w : Word} {ts : List Turn} (hr : s.resetSeen = true)
    (hts : s.host.turns = .regWrite off w :: ts) (hoff : off.extractLsb' 2 4 = 3) :
    step s = dispatch w (s.setTurns ts) := by
  rw [step_regWrite hr hts, regWrite, if_pos ((regOfOffset_eq_cmd off).mpr hoff)]

/-- Settles O7: the number names the register, whose write is the step. -/
theorem registerWriteEffects : Obligations.RegisterWriteEffects := by
  unfold Obligations.RegisterWriteEffects
  intro s off w ts hr hts
  refine ⟨fun hn => ?readOnly, fun hn => ?ctrl, step_writeCmd hr hts, fun hn => ?status,
    fun hn => step_writeReg hr hts hn (by decide), fun hn => ?entLen, fun hn => step_writeReg hr hts hn (by decide),
    fun hn => step_writeReg hr hts hn (by decide), fun hn => step_writeReg hr hts hn (by decide),
    fun hn => step_writeReg hr hts hn (by decide)⟩
  case readOnly =>
    have mem : regOfNumber (off.extractLsb' 2 4) ∈ readOnlyRegs := (regOfOffset_mem_readOnlyRegs off).mpr hn
    rw [step_writeReg hr hts rfl (ne_of_mem_of_not_mem mem (by decide)), writeReg_of_readOnly mem]
  case ctrl =>
    rw [← BitVec.setWidth_eq_extractLsb' (by decide)]
    exact step_write_ctrl hr hts hn
  case status => exact (step_writeReg hr hts hn (by decide)).trans (congrArg _ (writeStatus_eq w _))
  case entLen =>
    rw [← BitVec.setWidth_eq_extractLsb' (by decide)]
    exact step_writeReg hr hts hn (by decide)

/-! ## Commands while a job runs -/

/-- A command other than NOP and ABORT is rejected while a job runs (R93). -/
theorem exec_of_busy {i : Instr} {s : State} (busy : s.eng.job ≠ .idle) (notNop : i ≠ .nop) (notAbort : i ≠ .abort) :
    exec i s = .next (cmdError .busy s) := by
  cases i
  case nop => exact absurd rfl notNop
  case abort => exact absurd rfl notAbort
  all_goals exact congrArg _ (whenIdle_of_busy _ busy)

/-- ABORT with no job running (R97). -/
theorem exec_abort_of_idle {s : State} (idle : s.eng.job = .idle) : exec .abort s = .next s := by
  rw [exec, execAbort, abort, if_pos idle]

/-- ABORT while a job runs (R97, R203). -/
theorem exec_abort_of_busy {s : State} (busy : s.eng.job ≠ .idle) : exec .abort s = .next { s with
    eng := Engine.cleared, outSlot := none, err := true, errCode := .aborted, errInfo := 0 } := by
  rw [exec, execAbort, abort, if_neg busy, jobError_of_running _ _ busy]

/-- Settles O17: an abort is the error ABORTED of the job that runs, if one does. -/
theorem abortEndsARunningJob : Obligations.AbortEndsARunningJob := fun _ => ⟨exec_abort_of_idle, exec_abort_of_busy⟩

/-- Settles O18: the seven commands test BUSY; NOP does nothing, and an abort's error is no CmdError. -/
theorem onlyNopAndAbortAreAcceptedWhileBusy : Obligations.OnlyNopAndAbortAreAcceptedWhileBusy := by
  unfold Obligations.OnlyNopAndAbortAreAcceptedWhileBusy
  refine fun s i busy => ⟨exec_of_busy busy, ?_⟩
  rintro (rfl | rfl)
  · exact ⟨s, rfl, rfl, rfl, rfl⟩
  · exact ⟨_, exec_abort_of_busy busy, rfl, rfl, rfl⟩

/-! ## Dispatch -/

/-- An illegal word is rejected with its cause (R92, R206). -/
theorem dispatch_of_illegal {w : Word} {why : Illegal} (h : decode w = .illegal why) (s : State) :
    dispatch w s = .next (cmdError (illegalCause why) s) := by
  rw [dispatch, h]

/-- A command's word executes it (R92). -/
theorem dispatch_of_command {w : Word} {i : Instr} (h : decode w = .command i) (s : State) :
    dispatch w s = exec i s := by
  rw [dispatch, h]

/-- Settles O6: a CMD write dispatches its word, and a command that may not run meets the BUSY test in its meaning. -/
theorem cmdWriteIsDispatched : Obligations.CmdWriteIsDispatched := by
  unfold Obligations.CmdWriteIsDispatched
  intro s off w ts hr hts hoff
  rw [step_writeCmd hr hts hoff]
  refine ⟨fun h => dispatch_of_illegal h _, fun h => dispatch_of_illegal h _, fun i h busy notNop notAbort => ?_,
    fun i h _ => dispatch_of_command h _⟩
  rw [dispatch_of_command h]
  exact exec_of_busy busy notNop notAbort

/-- NOP's word is 0 (R96). -/
theorem encode_nop : encode .nop = 0 := rfl

/-- A word other than 0 whose OP is 0 has reserved bits set (R96, R74 (2)). -/
theorem decode_of_op_zero {w : Word} (hop : w.extractLsb' 0 4 = 0) (hw : w ≠ 0) :
    decode w = .illegal .reservedBits := by
  have decoded : decode w =
      if (fieldsOfWord w).reservedClear then .command .nop else .illegal .reservedBits :=
    decodeFields_of_opcode (i := .nop) hop
  split at decoded
  · exact absurd (eq_encode_of_decode decoded) hw
  · exact decoded

/-- Settles O16: NOP's word is 0, and no other word with OP 0 is a command's. -/
theorem nopDoesNothingInAnyState : Obligations.NopDoesNothingInAnyState := by
  unfold Obligations.NopDoesNothingInAnyState
  have zero : decode 0 = .command .nop := encode_nop ▸ decode_encode .nop
  exact ⟨fun _ => rfl, encode_nop, dispatch_of_command zero, fun s w hop hw =>
    dispatch_of_illegal (decode_of_op_zero hop hw) s⟩

end Sys2Proof.Proofs
end

section
/-! The family of the table commands (R110 to R116): the first duplicate pair, and what each command does to the LUT,
TABLE_COUNT and the staging registers with no job running. -/

namespace Sys2Proof.Proofs

open Sys2Proof.Machine Sys2Proof.Laws

/-! ## The duplicate search -/

/-- The pair that the search gives is the first pair in the list of rows (R115). -/
theorem firstPairAt_of_findDup {s : State} {i j : Sym} (h : s.findDup = some (i, j)) :
    FirstPairAt s.lut.toList i.toNat j.toNat := by
  obtain ⟨⟨a, b⟩, found, pair⟩ := Option.map_eq_some_iff.mp h
  obtain ⟨rfl, rfl⟩ : BitVec.ofNat 7 a = i ∧ BitVec.ofNat 7 b = j := by simpa using pair
  obtain ⟨m, n, rfl, rfl, isFirst⟩ := firstPair_some found
  have ⟨x, y, _, hx, hy, _⟩ := isFirst
  have hm := (lutAt_of_getElem? hx).1
  have hn := (lutAt_of_getElem? hy).1
  simpa [Nat.mod_eq_of_lt hm, Nat.mod_eq_of_lt hn] using isFirst

/-- The pair that the search gives, told of the symbols: two rows with the same code, and no such pair before it in
lexicographic order (R115). -/
theorem findDup_some {s : State} {i j : Sym} (h : s.findDup = some (i, j)) :
    i < j ∧ (s.entry i).sameCode (s.entry j) = true ∧
      ∀ i' j' : Sym, i' < j' → (s.entry i').sameCode (s.entry j') = true → i < i' ∨ (i = i' ∧ j ≤ j') := by
  have row (k : Sym) : s.lut.toList[k.toNat]? = some (s.entry k) := lut_toList_getElem? s.lut k
  obtain ⟨x, y, lt, hx, hy, same, isFirst⟩ := firstPairAt_of_findDup h
  obtain rfl := Option.some.inj ((row i).symm.trans hx)
  obtain rfl := Option.some.inj ((row j).symm.trans hy)
  refine ⟨lt, same, fun i' j' lt' same' => ?_⟩
  exact (isFirst _ _ _ _ lt' (row i') (row j') same').imp id (And.imp_left BitVec.eq_of_toNat_eq)

/-- Settles O26: an injective table has no pair, and otherwise the nested search meets the first pair first. -/
theorem findDupIsTheFirstPair : Obligations.FindDupIsTheFirstPair := by
  unfold Obligations.FindDupIsTheFirstPair
  refine fun s => ⟨findDup_none_iff s, fun i j h => ?_⟩
  obtain ⟨lt, same, isFirst⟩ := findDup_some h
  obtain ⟨validI, validJ, len, code⟩ := (sameCode_iff _ _).mp same
  exact ⟨lt, validI, validJ, len, code, fun i' j' lt' validI' validJ' len' code' =>
    isFirst i' j' lt' ((sameCode_iff _ _).mpr ⟨validI', validJ', len', code'⟩)⟩

/-! ## TBL_CHECK -/

/-- TBL_CHECK of a table without a duplicate passes (R116). -/
theorem tblCheck_of_unique {s : State} (h : s.findDup = none) :
    tblCheck s = { beginJob .check s with done := true } := by
  have same : (beginJob .check s).findDup = s.findDup := rfl
  simp only [tblCheck, same, h]

/-- TBL_CHECK of a table with a duplicate fails and reports the pair (R116, R205). -/
theorem tblCheck_of_duplicate {s : State} {p : Sym × Sym} (h : s.findDup = some p) (idle : s.eng.job = .idle) :
    tblCheck s = startFailed .check .injectivity (pairInfo p) s := by
  have same : (beginJob .check s).findDup = s.findDup := rfl
  simp only [tblCheck, same, h]
  exact jobError_of_idle _ _ idle

/-- Settles O23: the search finds no pair exactly on an injective table, and TBL_CHECK reports what it finds. -/
theorem tblCheckReportsInjectivity : Obligations.TblCheckReportsInjectivity := by
  unfold Obligations.TblCheckReportsInjectivity
  intro s idle
  rw [exec, execTblCheck, whenIdle_of_idle _ idle]
  constructor
  · intro injective
    rw [tblCheck_of_unique ((findDup_none_iff s).mpr injective)]
    rfl
  · intro duplicate
    obtain ⟨⟨i, j⟩, found⟩ := Option.ne_none_iff_exists'.mp (mt (findDup_none_iff s).mp duplicate)
    refine ⟨i, j, found, ?_⟩
    rw [tblCheck_of_duplicate found idle]
    rfl

/-! ## TABLE_COUNT -/

/-- TABLE_COUNT is within 0..128 and counts the valid rows in a state of a run (R112, R47 (a)). -/
theorem tableCount_of_inv {s : State} (h : s.Inv) :
    s.tableCount.toNat ≤ 128 ∧ s.tableCount.toNat = (validSyms s.lut).length := by
  obtain ⟨table, -⟩ := (inv_iff s).mp h
  exact ⟨table.count_le, table.counts⟩

/-- Settles O37: of what a step can do to the table, only these four change the count; that it counts the valid rows is
part of the invariant, which every step keeps. -/
theorem tableCountChangesOnlyByTableCommands : Obligations.TableCountChangesOnlyByTableCommands := by
  unfold Obligations.TableCountChangesOnlyByTableCommands
  refine fun s t h => ⟨fun changed => ?_, fun inv => tableCount_of_inv (stepKeepsInvariants s t inv h)⟩
  cases tableStep_of_step h with
  | unchanged _ count => exact absurd count changed
  | reset next _ count => exact .inr (.inr (.inr ⟨next, count⟩))
  | cleared _ next _ count => exact .inr (.inr (.inl ⟨next, count⟩))
  | written k _ next _ count =>
    cases hv : (s.entry k).valid with
    | true => exact absurd (by simpa [hv] using count) changed
    | false => exact .inl ⟨k, next, hv, by simpa [hv] using count⟩
  | dropped k _ next _ count =>
    cases hv : (s.entry k).valid with
    | true => exact .inr (.inl ⟨k, next, hv, by simpa [hv] using count⟩)
    | false => exact absurd (by simpa [hv] using count) changed

/-! ## The commands that write rows -/

/-- Settles O19: every row of the empty LUT is the invalid one. -/
theorem tblClearEmptiesTheLut : Obligations.TblClearEmptiesTheLut := by
  unfold Obligations.TblClearEmptiesTheLut
  intro s idle
  rw [exec, execTblClear, whenIdle_of_idle _ idle]
  exact ⟨tblClear s, rfl, rfl, lutAt_empty⟩

/-- The code ENT_WRITE stores is STAGE_CODE modulo 2^LEN (R72, R111). -/
theorem stagedEntry_code_toNat (s : State) : s.stagedEntry.code.toNat = s.stageCode.toNat % 2 ^ s.entLen.toNat := by
  have fits : 2 ^ s.entLen.toNat ∣ 2 ^ 127 := Nat.pow_dvd_pow 2 (Nat.le_of_lt_succ s.entLen.isLt)
  rw [State.stagedEntry, codeMask_toNat, stageCode_low_toNat, Nat.mod_mod_of_dvd _ fits]

/-- Settles O20: ENT_WRITE sets one row to the staged one and counts it. -/
theorem entWriteStoresTheStagedCode : Obligations.EntWriteStoresTheStagedCode := by
  unfold Obligations.EntWriteStoresTheStagedCode
  intro s k idle
  rw [exec, execEntWrite, whenIdle_of_idle _ idle, entWrite_eq]
  have row := lutAt_set_self s.lut k s.stagedEntry
  refine ⟨_, rfl, rfl, congrArg _ row, congrArg _ row, ?_, fun j hj => lutAt_set_ne s.lut s.stagedEntry hj, rfl⟩
  rw [← stagedEntry_code_toNat]
  exact congrArg (·.code.toNat) row

/-- Settles O22: ENT_INVAL sets one row to the invalid one and uncounts what stood there. -/
theorem entInvalDropsOneRow : Obligations.EntInvalDropsOneRow := by
  unfold Obligations.EntInvalDropsOneRow
  intro s k idle
  rw [exec, execEntInval, whenIdle_of_idle _ idle, entInval_eq]
  exact ⟨_, rfl, rfl, lutAt_set_self s.lut k Entry.invalid, fun j hj => lutAt_set_ne s.lut Entry.invalid hj, rfl⟩

/-! ## ENT_READ -/

/-- ENT_READ of a valid row (R113). -/
theorem entRead_of_valid {s : State} {k : Sym} (h : (s.entry k).valid = true) : entRead k s =
    { s with entValid := true, entLen := (s.entry k).len }.setStageCode ((s.entry k).code.setWidth 128) :=
  if_pos h

/-- ENT_READ of an invalid row (R113). -/
theorem entRead_of_invalid {s : State} {k : Sym} (h : (s.entry k).valid = false) : entRead k s =
    { s with entValid := false, entLen := 0 }.setStageCode 0 :=
  if_neg (Bool.eq_false_iff.mp h)

/-- Settles O21: by whether the row is valid; either way only the staging registers are written, and what they take is
what STAGE_CODE then reads. -/
theorem entReadCopiesTheRowToStaging : Obligations.EntReadCopiesTheRowToStaging := by
  unfold Obligations.EntReadCopiesTheRowToStaging
  intro s k idle
  rw [exec, execEntRead, whenIdle_of_idle _ idle]
  refine ⟨_, rfl, ?_⟩
  cases hv : (s.entry k).valid with
  | true =>
    rw [entRead_of_valid hv]
    have fits : (s.entry k).code.toNat < 2 ^ 128 := (s.entry k).code.isLt.trans (by decide)
    refine ⟨rfl, fun _ => ⟨rfl, rfl, ?_⟩, nofun⟩
    rw [stageCode_setStageCode, BitVec.toNat_setWidth, Nat.mod_eq_of_lt fits]
  | false =>
    rw [entRead_of_invalid hv]
    exact ⟨rfl, nofun, fun _ => ⟨rfl, rfl, stageCode_setStageCode _ 0⟩⟩

end Sys2Proof.Proofs
end

section
/-! The family of the encoder (spec/42_encoder.md), first part: ENC_START, each engine step of an encode job, and the token
stream as a function of the table (R130 to R139). -/

namespace Sys2Proof.Proofs

open Sys2Proof.Machine Sys2Proof.Laws

/-! ## ENC_START -/

/-- ENC_START with a table and an input starts an encode job (R130). -/
theorem encStart_of_nonempty {s : State} (table : s.tableCount ≠ 0) (input : s.inLen ≠ 0) : encStart s = encStarted s := by
  have noError : ((s.tableCount == 0) || (s.inLen == 0)) = false := by simpa using ⟨table, input⟩
  exact if_neg (Bool.eq_false_iff.mp noError)

/-- ENC_START without a table or an input fails and reports which is missing (R130, R205). -/
theorem encStart_of_empty {s : State} (idle : s.eng.job = .idle) (missing : s.tableCount = 0 ∨ s.inLen = 0) :
    encStart s = startFailed .encode .emptyInput (emptyInfo (s.tableCount == 0) (s.inLen == 0)) s := by
  have error : ((s.tableCount == 0) || (s.inLen == 0)) = true := by simpa using missing
  exact (if_pos error).trans (jobError_of_idle _ _ idle)

/-- ERR_INFO of EMPTY_INPUT has a bit for each of the two conditions (R35). -/
theorem emptyInfo_eq (noTable noInput : Prop) [Decidable noTable] [Decidable noInput] :
    emptyInfo (decide noTable) (decide noInput) = (if noTable then 1 else 0) ||| (if noInput then 2 else 0) := by
  by_cases ht : noTable <;> by_cases hi : noInput <;> simp [emptyInfo, ht, hi]

/-- Settles O24: the two conditions decide between the start and the error, and are what ERR_INFO shows. -/
theorem encStartStartsOrReportsEmptyInput : Obligations.EncStartStartsOrReportsEmptyInput := by
  unfold Obligations.EncStartStartsOrReportsEmptyInput
  intro s idle
  rw [exec, execEncStart, whenIdle_of_idle _ idle]
  constructor
  · intro table input
    rw [encStart_of_nonempty table input]
    rfl
  · intro missing
    rw [encStart_of_empty idle missing, ← emptyInfo_eq]
    rfl

/-! ## The engine steps -/

/-- The error of a byte that cannot be encoded (R132, R200). -/
def encErrCode (b : Byte) : ErrCode :=
  if 0x80 ≤ b.toNat then .inputRange else .missingCode

/-- A byte can be encoded exactly if it is a symbol with a row (R132). -/
theorem encodable_iff (lut : Lut) (b : Byte) :
    encodable lut b = true ↔ b.toNat < 0x80 ∧ (lutAt lut (b.setWidth 7)).valid = true := by
  simp [encodable]

/-- ENC_CONSUME opens the code of a byte that can be encoded (R132). -/
theorem encConsume_of_encodable {s : State} {b : Byte} (offered : s.inSlot = some b) (good : encodable s.lut b = true) :
    engineRun .encConsume s = encOpened b s := by
  obtain ⟨range, valid⟩ := (encodable_iff _ _).mp good
  have valid : (s.countByte.entry (b.setWidth 7)).valid = true := valid
  simp only [engineRun, encConsume, offered, encConsumeByte, if_neg (Nat.not_le.mpr range), if_pos valid]
  rfl

/-- ENC_CONSUME ends the job at a byte that cannot be encoded (R132, R203). -/
theorem encConsume_of_not_encodable {s : State} {b : Byte} (offered : s.inSlot = some b) (busy : s.eng.job ≠ .idle)
    (bad : encodable s.lut b = false) : engineRun .encConsume s = encFailed (encErrCode b) b s := by
  have failed (c : ErrCode) : jobError c (b.setWidth 32) s.countByte = encFailed c b s := jobError_of_running _ _ busy
  simp only [engineRun, encConsume, offered, encConsumeByte, encErrCode]
  by_cases range : 0x80 ≤ b.toNat
  · rw [if_pos range, if_pos range, failed]
  · have invalid : ¬(s.countByte.entry (b.setWidth 7)).valid = true := fun valid =>
      Bool.eq_false_iff.mp bad ((encodable_iff _ _).mpr ⟨Nat.not_le.mp range, valid⟩)
    rw [if_neg range, if_neg invalid, if_neg range, failed]

/-- Settles O27: a byte that cannot be encoded ends the job with its error, and any other opens its code. -/
theorem encConsumeLooksUpTheByte : Obligations.EncConsumeLooksUpTheByte := by
  unfold Obligations.EncConsumeLooksUpTheByte
  intro s b guard offered
  have busy := running_of_guard guard
  rw [engineTurn_of_guard guard]
  refine ⟨fun range => ?range, fun range invalid => ?missing, fun range valid => ?opened⟩
  case range =>
    rw [encConsume_of_not_encodable offered busy (by simp [encodable, range]), encErrCode, if_pos range]
    rfl
  case missing =>
    rw [encConsume_of_not_encodable offered busy (Bool.and_eq_false_imp.mpr fun _ => invalid), encErrCode,
      if_neg (Nat.not_le.mpr range)]
    rfl
  case opened =>
    rw [encConsume_of_encodable offered ((encodable_iff _ _).mpr ⟨range, valid⟩)]
    rfl

/-- A code string has as many characters as LEN says (R13). -/
@[simp] theorem chars_length (e : Entry) : e.chars.length = e.len.toNat := by
  simp [Entry.chars, Entry.bits]

/-- Character `i` of a code string is bit `len - 1 - i` of the value (R13). -/
theorem chars_getElem (e : Entry) (i : Nat) (h : i < e.chars.length) :
    e.chars[i] = bitChar (e.code.getLsbD (e.len.toNat - 1 - i)) := by
  simp [Entry.chars, Entry.bits]

/-- The state after ENC_EMIT_CHAR of the character `c` (R134). -/
def charEmitted (c : Byte) (s : State) : State :=
  { s with outSlot := some c, eng := { s.eng with encPos := s.eng.encPos + 1 } }

/-- ENC_EMIT_CHAR emits character `encPos` of the code string (R134, R13). -/
theorem encEmitChar_eq {s : State} (more : s.eng.encPos.toNat < s.encEntry.chars.length) :
    engineRun .encEmitChar s = charEmitted s.encEntry.chars[s.eng.encPos.toNat] s := by
  rw [chars_getElem]
  rfl

/-- Settles O28: enc_pos is within the code string, and the bit emitted is that character. -/
theorem encEmitCharEmitsTheNextCharacter : Obligations.EncEmitCharEmitsTheNextCharacter := by
  unfold Obligations.EncEmitCharEmitsTheNextCharacter
  intro s guard
  obtain ⟨-, -, more, -⟩ := (encEmitChar_guard_iff s).mp guard
  rw [← chars_length] at more
  exact ⟨_, List.getElem?_eq_getElem more, (engineTurn_of_guard guard).trans (encEmitChar_eq more)⟩

/-- `finish()` with OUT.slot empty, as its guard asks, clears E and sets DONE (R104, R136). -/
theorem finish_of_outSlot_none {s : State} (empty : s.outSlot = none) :
    finish s = { s with eng := Engine.cleared, done := true } := by
  rw [finish, endJob, ← empty]

/-- Settles O29: the two steps write out what their guards leave to do. -/
theorem encDelimiterAndFinish : Obligations.EncDelimiterAndFinish := by
  unfold Obligations.EncDelimiterAndFinish
  refine fun s => ⟨engineTurn_of_guard, fun guard => ?_⟩
  obtain ⟨-, -, -, empty⟩ := (encFinish_guard_iff s).mp guard
  exact (engineTurn_of_guard guard).trans (finish_of_outSlot_none empty)

/-! ## The token stream -/

@[simp] theorem encStream_nil (lut : Lut) : encStream lut [] = [] := rfl

theorem encStream_append (lut : Lut) (bs cs : List Byte) :
    encStream lut (bs ++ cs) = encStream lut bs ++ encStream lut cs :=
  List.flatMap_append

@[simp] theorem encStream_singleton (lut : Lut) (b : Byte) : encStream lut [b] = encToken lut b := by
  simp [encStream]

/-- A code of length 0 is one space (R139). -/
theorem encToken_of_len_zero {lut : Lut} {k : Sym} (h : (lutAt lut k).len = 0) : encToken lut (k.setWidth 8) = [space] := by
  have noChars : (lutAt lut k).chars = [] := List.eq_nil_of_length_eq_zero (by simp [h])
  rw [encToken, BitVec.setWidth_setWidth_of_le _ (by decide), BitVec.setWidth_eq, noChars, List.nil_append]

/-- Settles O51: the symbol's code has length 0, so each of its bytes is one space. -/
theorem degenerateEncodingIsSpaces : Obligations.DegenerateEncodingIsSpaces := by
  unfold Obligations.DegenerateEncodingIsSpaces
  refine ⟨fun lut k n degenerate => ?_, fun lut k len => ?_⟩
  · rw [encStream, List.flatMap_replicate, encToken_of_len_zero degenerate.2]
    exact List.flatten_replicate_singleton
  · rw [encStream_singleton, encToken_of_len_zero len]
    rfl

end Sys2Proof.Proofs
end

section
/-! The family of the encoder (spec/42_encoder.md), second part: an encode job, whatever the interleaving, delivers the token
stream of the bytes it consumed (R137, R138). What a job has still to deliver is the byte in OUT.slot and the rest of the
code that is open; every step but a failing one keeps what is delivered, followed by what is owed, equal to the stream. -/

namespace Sys2Proof.Proofs

open Sys2Proof.Machine Sys2Proof.Laws

/-! ## Delivery -/

/-- From `s` to `t` the host took exactly these bytes, and OUT_COUNT counted them (R31, R95). -/
structure Delivers (out : List Byte) (s t : State) : Prop where
  taken : t.host.taken = s.host.taken ++ out
  counted : t.outCount = s.outCount + BitVec.ofNat 32 out.length

/-- Nothing taken, nothing counted. -/
theorem delivers_nil {s t : State} (taken : t.host.taken = s.host.taken) (counted : t.outCount = s.outCount) :
    Delivers [] s t :=
  ⟨by simp [taken], by simp [counted]⟩

theorem Delivers.trans {out out' : List Byte} {s t u : State} (h : Delivers out s t) (h' : Delivers out' t u) :
    Delivers (out ++ out') s u where
  taken := by rw [h'.taken, h.taken, List.append_assoc]
  counted := by rw [h'.counted, h.counted, List.length_append, BitVec.ofNat_add, BitVec.add_assoc]

/-- From a job's start OUT_COUNT is the number of bytes taken, modulo 2^32 (R31). -/
theorem Delivers.outCount_toNat {out : List Byte} {s t : State} (h : Delivers out s t) (start : s.outCount = 0) :
    t.outCount.toNat = out.length % 2 ^ 32 := by
  simp [h.counted, start]

/-- A step of the host or a wait: the job, its input counter and the LUT stay, and a byte taken is the one held. -/
structure HostMoved (s t : State) : Prop where
  eng : t.eng = s.eng
  lut : t.lut = s.lut
  inCount : t.inCount = s.inCount
  skipCount : t.skipCount = s.skipCount
  out : ∃ out, Delivers out s t ∧ out ++ t.outSlot.toList = s.outSlot.toList

/-- What a step did while a job runs: a move of the host or a wait, an engine step, an abort, or a Reset (R93, R103). -/
inductive JobStep (s t : State) : Prop
  | moved (moved : HostMoved s t)
  | engine (e : EngineStep) (ts : List Turn) (guard : engineGuard e (s.setTurns ts) = true)
      (next : t = engineRun e (s.setTurns ts))
  | aborted (idle : t.eng.job = .idle) (done : t.done = s.done) (code : t.errCode = .aborted)
  | reset (idle : t.eng.job = .idle) (done : t.done = false) (err : t.err = false)

/-- A step that leaves both ports and the job alone. -/
theorem JobStep.quiet {s t : State} (eng : t.eng = s.eng) (lut : t.lut = s.lut) (inCount : t.inCount = s.inCount)
    (skipCount : t.skipCount = s.skipCount) (outSlot : t.outSlot = s.outSlot) (taken : t.host.taken = s.host.taken)
    (outCount : t.outCount = s.outCount) : JobStep s t :=
  .moved ⟨eng, lut, inCount, skipCount, [], delivers_nil taken outCount, by simp [outSlot]⟩

/-- A take delivers the byte held (R95). -/
theorem hostMoved_hostTake (s : State) (ts : List Turn) : HostMoved s (hostTake (s.setTurns ts)) := by
  rcases hostTake_cases (s.setTurns ts) with ⟨b, held, took⟩ | ⟨-, took⟩ <;> rw [took]
  · have held : s.outSlot = some b := held
    exact ⟨rfl, rfl, rfl, rfl, [b], ⟨rfl, rfl⟩, by simp [held]⟩
  · exact ⟨rfl, rfl, rfl, rfl, [], delivers_nil rfl rfl, rfl⟩

/-- Every step taken while a job runs is one of these (R93, R103). -/
theorem jobStep_of_step {s t : State} (h : step s = .next t) (busy : s.eng.job ≠ .idle) : JobStep s t := by
  refine step_induction h (JobStep s) ?reset ?engine ?wait ?read ?write ?reject ?command ?offer ?take
  case reset => exact fun _ _ => .reset rfl rfl rfl
  case engine => exact fun ts e takes => .engine e ts (by rw [engineGuard_setTurns, takes.1]) rfl
  case wait => exact fun _ => .quiet rfl rfl rfl rfl rfl rfl rfl
  case read => exact fun _ _ => .quiet rfl rfl rfl rfl rfl rfl rfl
  case write =>
    intro ts off w _ _
    rcases writeReg_cases (regOfOffset off) w (s.setTurns ts) with
      ⟨-, wrote⟩ | ⟨c, n, l, c0, c1, c2, c3, wrote⟩ <;> rw [wrote]
    · rw [writeStatus_eq]
      exact .quiet rfl rfl rfl rfl rfl rfl rfl
    · exact .quiet rfl rfl rfl rfl rfl rfl rfl
  case reject => exact fun _ _ _ => .quiet rfl rfl rfl rfl rfl rfl rfl
  case command =>
    intro ts i u _ he
    have busy : (s.setTurns ts).eng.job ≠ .idle := busy
    by_cases nop : i = .nop
    · subst nop
      obtain rfl : s.setTurns ts = u := by simpa [exec, execNop] using he
      exact .quiet rfl rfl rfl rfl rfl rfl rfl
    · by_cases abort : i = .abort
      · subst abort
        obtain rfl := Host.Outcome.next.inj ((exec_abort_of_busy busy).symm.trans he)
        exact .aborted rfl rfl rfl
      · obtain rfl := Host.Outcome.next.inj ((exec_of_busy busy nop abort).symm.trans he)
        exact .quiet rfl rfl rfl rfl rfl rfl rfl
  case offer => exact fun _ _ _ => .quiet rfl rfl rfl rfl rfl rfl rfl
  case take => exact fun ts => .moved (hostMoved_hostTake s ts)

/-! ## What is owed -/

/-- What the open code has still to emit: its characters from `encPos` on, and the space (R134, R135). -/
def pending (s : State) : List Byte :=
  if s.eng.encActive = true then s.encEntry.chars.drop s.eng.encPos.toNat ++ [space] else []

theorem pending_of_closed {s : State} (closed : s.eng.encActive = false) : pending s = [] :=
  if_neg (Bool.eq_false_iff.mp closed)

theorem pending_of_open {s : State} (opened : s.eng.encActive = true) :
    pending s = s.encEntry.chars.drop s.eng.encPos.toNat ++ [space] :=
  if_pos opened

/-- The bytes emitted or to be emitted for the input consumed, which the host has not taken. -/
def owed (s : State) : List Byte :=
  s.outSlot.toList ++ pending s

/-- From `s` to `t` an encode job consumed these bytes, all with a row, and their tokens, after what was owed in `s`, are
what the host took and what is owed in `t`. -/
structure Emits (s : State) (bs : List Byte) (t : State) : Prop where
  lut : t.lut = s.lut
  skipCount : t.skipCount = s.skipCount
  encodable : ∀ b ∈ bs, encodable s.lut b = true
  stream : ∃ out, Delivers out s t ∧ out ++ owed t = owed s ++ encStream s.lut bs

theorem emits_refl (s : State) : Emits s [] s :=
  ⟨rfl, rfl, by simp, [], delivers_nil rfl rfl, by simp⟩

theorem Emits.trans {s t u : State} {bs cs : List Byte} (h : Emits s bs t) (h' : Emits t cs u) : Emits s (bs ++ cs) u where
  lut := h'.lut.trans h.lut
  skipCount := h'.skipCount.trans h.skipCount
  encodable := by
    intro b hb
    rcases List.mem_append.mp hb with hb | hb
    · exact h.encodable b hb
    · exact h.lut ▸ h'.encodable b hb
  stream := by
    obtain ⟨out, delivered, stream⟩ := h.stream
    obtain ⟨out', delivered', stream'⟩ := h'.stream
    refine ⟨out ++ out', delivered.trans delivered', ?_⟩
    calc (out ++ out') ++ owed u
        = out ++ (owed t ++ encStream t.lut cs) := by rw [List.append_assoc, stream']
      _ = owed s ++ encStream s.lut (bs ++ cs) := by
        rw [← List.append_assoc, stream, h.lut, List.append_assoc, encStream_append]

/-- A move of the host delivers part of what is owed. -/
theorem HostMoved.emits {s t : State} (h : HostMoved s t) : Emits s [] t where
  lut := h.lut
  skipCount := h.skipCount
  encodable := by simp
  stream := by
    obtain ⟨out, delivered, held⟩ := h.out
    have same : pending t = pending s := by simp only [pending, State.encEntry, State.entry, h.eng, h.lut]
    exact ⟨out, delivered, by simp [owed, same, ← held]⟩

/-- An engine step that consumes `bs` and delivers nothing itself: what is owed grows by the tokens of `bs`. -/
theorem emits_of_owed {s t : State} {bs : List Byte} (lut : t.lut = s.lut) (skipCount : t.skipCount = s.skipCount)
    (taken : t.host.taken = s.host.taken) (outCount : t.outCount = s.outCount)
    (good : ∀ b ∈ bs, encodable s.lut b = true) (grows : owed t = owed s ++ encStream s.lut bs) : Emits s bs t :=
  ⟨lut, skipCount, good, [], delivers_nil taken outCount, grows⟩

/-! ## The engine steps of an encode job -/

/-- The whole token of a byte is pending once its code is open (R132, R75). -/
theorem pending_encOpened (b : Byte) (s : State) : pending (encOpened b s) = encToken s.lut b :=
  pending_of_open rfl

/-- ENC_CONSUME of a byte that can be encoded: its token is owed (R132). -/
theorem emits_encOpened {s : State} {b : Byte} (closed : s.eng.encActive = false) (good : encodable s.lut b = true) :
    Emits s [b] (encOpened b s) := by
  refine emits_of_owed rfl rfl rfl rfl (by simpa using good) ?_
  rw [owed, owed, pending_encOpened, pending_of_closed closed, encStream_singleton, List.append_nil]
  rfl

/-- The position in a code string moves on by one (R134). -/
theorem encPos_succ {s : State} (more : s.eng.encPos.toNat < s.encEntry.len.toNat) :
    (s.eng.encPos + 1).toNat = s.eng.encPos.toNat + 1 := by
  have := s.encEntry.len.isLt
  bv_omega

/-- ENC_EMIT_CHAR moves the first character pending to OUT.slot (R134). -/
theorem pending_encEmitChar {s : State} (guard : engineGuard .encEmitChar s = true) :
    pending s = (engineRun .encEmitChar s).outSlot.toList ++ pending (engineRun .encEmitChar s) := by
  obtain ⟨-, opened, more, -⟩ := (encEmitChar_guard_iff s).mp guard
  have inString : s.eng.encPos.toNat < s.encEntry.chars.length := by rwa [chars_length]
  have rest : pending (engineRun .encEmitChar s) = s.encEntry.chars.drop (s.eng.encPos + 1).toNat ++ [space] :=
    pending_of_open opened
  rw [rest, encEmitChar_eq inString, encPos_succ more, pending_of_open opened, List.drop_eq_getElem_cons inString]
  rfl

/-- ENC_EMIT_DELIM moves the space, the last byte pending, to OUT.slot (R135). -/
theorem pending_encEmitDelim {s : State} (guard : engineGuard .encEmitDelim s = true) :
    pending s = (engineRun .encEmitDelim s).outSlot.toList ++ pending (engineRun .encEmitDelim s) := by
  obtain ⟨-, opened, last, -⟩ := (encEmitDelim_guard_iff s).mp guard
  have rest : pending (engineRun .encEmitDelim s) = [] := pending_of_closed rfl
  rw [rest, pending_of_open opened, List.drop_eq_nil_of_le (by rw [chars_length, last])]
  rfl

/-- A byte moved from the pending ones to an empty OUT.slot is owed as before. -/
theorem owed_of_moved {s t : State} (empty : s.outSlot = none) (moved : pending s = t.outSlot.toList ++ pending t) :
    owed t = owed s ++ encStream s.lut [] := by
  simp [owed, empty, moved]

/-- What a step did to an encode job: the job went on or finished, and emitted the tokens of what it consumed; it failed at
a byte that cannot be encoded; it was aborted or reset. -/
inductive EncStep (s t : State) : Prop
  | wentOn (emits : Emits s (consumed s t) t) (job : t.eng.job = .enc)
  | finished (emits : Emits s [] t) (owes : owed t = []) (left : s.eng.remaining = 0) (idle : t.eng.job = .idle)
      (inCount : t.inCount = s.inCount) (err : t.err = s.err)
  | failed (b : Byte) (ts : List Turn) (offered : s.inSlot = some b) (bad : encodable s.lut b = false)
      (closed : s.eng.encActive = false) (left : 0 < s.eng.remaining.toNat)
      (next : t = encFailed (encErrCode b) b (s.setTurns ts))
  | aborted (idle : t.eng.job = .idle) (done : t.done = s.done) (code : t.errCode = .aborted)
  | reset (idle : t.eng.job = .idle) (done : t.done = false) (err : t.err = false)

theorem consumed_of_same {s t : State} (h : t.inCount = s.inCount) : consumed s t = [] :=
  if_pos h

/-- A byte counted is the byte that was offered (R30). -/
theorem consumed_of_counted {s t : State} {b : Byte} (offered : s.inSlot = some b) (h : t.inCount = s.inCount + 1) :
    consumed s t = [b] := by
  have moved : t.inCount ≠ s.inCount := by rw [h]; bv_omega
  rw [consumed, if_neg moved, offered]
  rfl

/-- A step that consumes nothing and leaves the job running. -/
theorem EncStep.emitted {s t : State} (inCount : t.inCount = s.inCount) (emits : Emits s [] t) (job : t.eng.job = .enc) :
    EncStep s t :=
  .wentOn (by rw [consumed_of_same inCount]; exact emits) job

/-- An engine step of an encode job (R132 to R136). -/
theorem encStep_engineRun {e : EngineStep} {s : State} (guard : engineGuard e s = true) (job : s.eng.job = .enc) :
    EncStep s (engineRun e s) := by
  have noDecode : s.eng.job ≠ .dec := by rw [job]; decide
  cases e with
  | encConsume =>
    obtain ⟨-, closed, left, b, offered⟩ := (encConsume_guard_iff s).mp guard
    cases good : encodable s.lut b with
    | true =>
      rw [encConsume_of_encodable offered good]
      refine .wentOn ?_ job
      rw [consumed_of_counted offered rfl]
      exact emits_encOpened closed good
    | false =>
      rw [encConsume_of_not_encodable offered (running_of_guard guard) good]
      exact .failed b s.host.turns offered good closed left rfl
  | encEmitChar =>
    obtain ⟨-, -, -, empty⟩ := (encEmitChar_guard_iff s).mp guard
    have same := owed_of_moved empty (pending_encEmitChar guard)
    exact .emitted rfl (emits_of_owed rfl rfl rfl rfl (by simp) same) job
  | encEmitDelim =>
    obtain ⟨-, -, -, empty⟩ := (encEmitDelim_guard_iff s).mp guard
    have same := owed_of_moved empty (pending_encEmitDelim guard)
    exact .emitted rfl (emits_of_owed rfl rfl rfl rfl (by simp) same) job
  | encFinish =>
    obtain ⟨-, closed, left, empty⟩ := (encFinish_guard_iff s).mp guard
    have nothing : owed s = [] := by simp [owed, empty, pending_of_closed closed]
    exact .finished (emits_of_owed rfl rfl rfl rfl (by simp) (by rw [nothing]; rfl)) rfl left rfl rfl rfl
  | decConsume => exact absurd ((decConsume_guard_iff s).mp guard).1 noDecode
  | decFlush => exact absurd ((decFlush_guard_iff s).mp guard).1 noDecode
  | decFinish => exact absurd ((decFinish_guard_iff s).mp guard).1 noDecode

/-- No fact about the job reads the moves still to come. -/
theorem encStep_of_setTurns {s t : State} {ts : List Turn} (h : EncStep (s.setTurns ts) t) : EncStep s t := by
  have same : Emits s [] (s.setTurns ts) := emits_of_owed rfl rfl rfl rfl (by simp) (List.append_nil _).symm
  cases h with
  | wentOn emits job => exact .wentOn (same.trans emits) job
  | finished emits owes left idle inCount err => exact .finished (same.trans emits) owes left idle inCount err
  | failed b ts' offered bad closed left next => exact .failed b ts' offered bad closed left next
  | aborted idle done code => exact .aborted idle done code
  | reset idle done err => exact .reset idle done err

/-- Every step taken while an encode job runs is one of these (R93, R103). -/
theorem encStep_of_step {s t : State} (h : step s = .next t) (job : s.eng.job = .enc) : EncStep s t := by
  cases jobStep_of_step h (by rw [job]; decide) with
  | moved moved => exact .emitted moved.inCount moved.emits (by rw [moved.eng, job])
  | engine e ts guard next =>
    subst next
    exact encStep_of_setTurns (encStep_engineRun guard job)
  | aborted idle done code => exact .aborted idle done code
  | reset idle done err => exact .reset idle done err

/-! ## Whole jobs -/

/-- All along an encode job the tokens of the bytes consumed are what was delivered and what is owed. -/
theorem emits_of_jobRun {s t : State} {bs : List Byte} (h : JobRun .enc s bs t) : Emits s bs t := by
  induction h with
  | start => exact emits_refl s
  | more bs t u run ht hu ih =>
    have running (idle : u.eng.job = .idle) : False := by rw [hu] at idle; cases idle
    cases encStep_of_step ht (jobRun_job run) with
    | wentOn emits => exact ih.trans emits
    | finished _ _ _ idle | aborted idle | reset idle => exact (running idle).elim
    | failed _ _ _ _ _ _ next => exact (running (by rw [next]; rfl)).elim

/-- At its start a job owes nothing (R130). -/
theorem owed_of_justStarted {s : State} (h : JustStarted .enc s) : owed s = [] := by
  simp [owed, h.nothingHeld, pending_of_closed h.noCodeOpen]

/-- The bytes of a job from its start are delivered or owed as their token stream. -/
theorem Emits.stream_of_justStarted {s t : State} {bs : List Byte} (h : Emits s bs t) (started : JustStarted .enc s) :
    ∃ out, t.host.taken = s.host.taken ++ out ∧ t.outCount.toNat = out.length % 2 ^ 32 ∧
      out ++ owed t = encStream s.lut bs := by
  obtain ⟨out, delivered, stream⟩ := h.stream
  rw [owed_of_justStarted started, List.nil_append] at stream
  exact ⟨out, delivered.taken, delivered.outCount_toNat started.nothingTaken, stream⟩

/-- Settles O45: a job that ends with DONE ends by ENC_FINISH, which owes nothing. -/
theorem encodeJobDeliversItsTokenStream : Obligations.EncodeJobDeliversItsTokenStream := by
  unfold Obligations.EncodeJobDeliversItsTokenStream
  rintro s u _ inv started ⟨bs, t, run, ht, idle, -, rfl⟩ done
  have job := jobRun_job run
  have undone := ((jobRun_inv inv run).runningUnflagged (by rw [job]; decide)).1
  cases encStep_of_step ht job with
  | wentOn _ job => rw [job] at idle; cases idle
  | failed _ _ _ _ _ _ next =>
    have kept : u.done = t.done := by rw [next]; rfl
    rw [kept, undone] at done
    cases done
  | aborted _ kept => rw [kept, undone] at done; cases done
  | reset _ cleared => rw [cleared] at done; cases done
  | finished emits owes left _ same =>
    have whole := (emits_of_jobRun run).trans emits
    obtain ⟨count, sum⟩ := inCountAndRemainingMakeTheJobLength .enc s t bs inv (by decide) started run
    have sum : t.inCount.toNat = s.eng.remaining.toNat := by simpa [left] using sum
    obtain ⟨out, taken, outCount, stream⟩ := whole.stream_of_justStarted started
    rw [owes, List.append_nil] at stream
    subst stream
    rw [consumed_of_same same]
    refine ⟨taken, whole.encodable, ?_, ?_, outCount, whole.skipCount.trans started.nothingSkipped⟩
    · rw [List.append_nil, ← count, sum]
    · rw [same, BitVec.eq_of_toNat_eq sum]

/-- The last byte of a token stream is a space, the stream being that of one byte at least (R75). -/
theorem encStream_last {lut : Lut} {bs out : List Byte} {c : Byte} (h : out ++ [c] = encStream lut bs) :
    bs ≠ [] ∧ c = space := by
  rcases List.eq_nil_or_concat bs with rfl | ⟨bs, b, rfl⟩
  · simp at h
  · rw [List.concat_eq_append, encStream_append, encStream_singleton, encToken, ← List.append_assoc] at h
    exact ⟨by simp, by simpa using (List.append_inj' h rfl).2⟩

/-- A stream of which at most the byte in OUT.slot is missing is whole, or lacks its last space (R138). -/
theorem stream_or_without_last {lut : Lut} {bs out : List Byte} {held : Option Byte}
    (h : out ++ held.toList = encStream lut bs) :
    out = encStream lut bs ∨ (bs ≠ [] ∧ out ++ [space] = encStream lut bs) := by
  cases held with
  | none => exact .inl (by simpa using h)
  | some c =>
    obtain ⟨nonempty, rfl⟩ := encStream_last h
    exact .inr ⟨nonempty, h⟩

/-- Settles O46: a job that fails does so at ENC_CONSUME with no code open, so that at most the byte in OUT.slot, the last
space, is owed. -/
theorem failedEncodeJobStopsAtTheFirstBadByte : Obligations.FailedEncodeJobStopsAtTheFirstBadByte := by
  unfold Obligations.FailedEncodeJobStopsAtTheFirstBadByte
  rintro s u _ inv started ⟨bs, t, run, ht, idle, -, rfl⟩ err notAborted
  have job := jobRun_job run
  have busy : t.eng.job ≠ .idle := by rw [job]; decide
  have noError := ((jobRun_inv inv run).runningUnflagged busy).2
  cases encStep_of_step ht job with
  | wentOn _ job => rw [job] at idle; cases idle
  | finished _ _ _ _ _ kept => rw [kept, noError] at err; cases err
  | aborted _ _ code => exact absurd code notAborted
  | reset _ _ cleared => rw [cleared] at err; cases err
  | failed b ts offered bad closed left next =>
    have emits := emits_of_jobRun run
    obtain ⟨count, -⟩ := inCountAndRemainingMakeTheJobLength .enc s t bs inv (by decide) started run
    obtain ⟨one, -⟩ := count_one left ((jobRun_inv inv run).countsFit busy)
    obtain ⟨out, taken, outCount, stream⟩ := emits.stream_of_justStarted started
    rw [owed, pending_of_closed closed, List.append_nil] at stream
    rw [emits.lut] at bad
    subst next
    rw [consumed_of_counted offered rfl]
    refine ⟨bs, b, rfl, emits.encodable, bad, rfl, rfl, ?_, out, taken, outCount, stream_or_without_last stream⟩
    exact one.trans (by rw [count, List.length_append]; rfl)

end Sys2Proof.Proofs
end

section
/-! The family of the encoder (spec/42_encoder.md), third part: an encode job of encodable bytes can end itself with DONE.
Whatever state the job is in, some move is enabled that brings its end nearer. -/

namespace Sys2Proof.Proofs

open Sys2Proof.Machine Sys2Proof.Laws

/-! ## A job told from its first step on -/

/-- A step before a run of a job makes a run (R56). -/
theorem jobRun_cons {kind : Job} {s t u : State} {bs : List Byte} (hs : s.eng.job = kind) (ht : step s = .next t)
    (h : JobRun kind t bs u) : JobRun kind s (consumed s t ++ bs) u := by
  induction h with
  | start job => simpa using JobRun.more [] s t (.start hs) ht job
  | more bs v w _ hw job ih => simpa using JobRun.more _ v w ih hw job

/-- A step before a job that ends makes a job that ends (R240). -/
theorem jobEnds_cons {kind : Job} {s t u : State} {bs : List Byte} (hs : s.eng.job = kind) (ht : step s = .next t)
    (h : JobEnds kind t bs u) : JobEnds kind s (consumed s t ++ bs) u := by
  obtain ⟨bs, v, run, hu, idle, flags, rfl⟩ := h
  exact ⟨_, v, jobRun_cons hs ht run, hu, idle, flags, (List.append_assoc ..).symm⟩

/-- For some moves the job consumes exactly these bytes and ends itself with DONE (R240, log 1). -/
def CanEnd (kind : Job) (bs : List Byte) (s : State) : Prop :=
  ∃ ts u, JobEnds kind (s.setTurns ts) bs u ∧ u.done = true

/-- The move is enabled and leads from `s` to `t`, whatever moves follow (R103). -/
structure MovesTo (m : Turn) (s t : State) : Prop where
  guard : turnGuard m s = true
  next : ∀ ts, turnRun m (s.setTurns ts) = .next (t.setTurns ts)

/-- The move, put first, is the next step. -/
theorem MovesTo.step {m : Turn} {s t : State} (h : MovesTo m s t) (seen : s.resetSeen = true) (ts : List Turn) :
    step (s.setTurns (m :: ts)) = .next (t.setTurns ts) :=
  (step_setTurns_cons ts seen h.guard).trans (h.next ts)

/-- A job that can end after an enabled move can end. -/
theorem MovesTo.canEnd {m : Turn} {kind : Job} {s t : State} {bs : List Byte} (h : MovesTo m s t)
    (seen : s.resetSeen = true) (job : s.eng.job = kind) (ends : CanEnd kind bs t) :
    CanEnd kind (consumed s t ++ bs) s := by
  obtain ⟨ts, u, ends, done⟩ := ends
  exact ⟨m :: ts, u, jobEnds_cons (t := t.setTurns ts) job (h.step seen ts) ends, done⟩

/-- No invariant reads the moves still to come. -/
theorem inv_setTurns (s : State) (ts : List Turn) : (s.setTurns ts).Inv ↔ s.Inv :=
  (inv_iff (s.setTurns ts)).trans (inv_iff s).symm

theorem MovesTo.inv {m : Turn} {s t : State} (h : MovesTo m s t) (seen : s.resetSeen = true) (inv : s.Inv) : t.Inv :=
  (inv_setTurns t []).mp (stepKeepsInvariants _ _ ((inv_setTurns s [m]).mpr inv) (h.step seen []))

/-- The engine's turn, where an engine step is enabled that does not read the moves still to come. -/
theorem movesTo_engine {e : EngineStep} {s : State} (guard : engineGuard e s = true)
    (blind : ∀ ts, engineRun e (s.setTurns ts) = (engineRun e s).setTurns ts) : MovesTo .engine s (engineRun e s) where
  guard := rfl
  next ts := by
    have guard : engineGuard e (s.setTurns ts) = true := by rw [engineGuard_setTurns, guard]
    rw [turnRun, engineTurn_of_guard guard, blind]

theorem justStarted_setTurns {kind : Job} {s : State} (h : JustStarted kind s) (ts : List Turn) :
    JustStarted kind (s.setTurns ts) :=
  ⟨h.jobRuns, h.nothingConsumed, h.nothingTaken, h.nothingSkipped, h.nothingHeld, h.noCodeOpen, h.noTokenOpen⟩

/-! ## What an encode job has left to do -/

/-- An encode job runs that has these bytes left to consume, all with a row, the first of which may be offered already. -/
structure EncLeft (bs : List Byte) (s : State) : Prop where
  seen : s.resetSeen = true
  inv : s.Inv
  job : s.eng.job = .enc
  left : bs.length = s.eng.remaining.toNat
  offered : s.inSlot = none ∨ bs = [] ∨ s.inSlot = bs.head?
  codes : ∀ b ∈ bs, encodable s.lut b = true

/-- A bound on the moves left: each byte to come out is emitted and taken, each byte to go in is offered and consumed. -/
def encWork (bs : List Byte) (s : State) : Nat :=
  4 * (encStream s.lut bs).length + 2 * (pending s).length + s.outSlot.toList.length + (if s.inSlot = none then 1 else 0)

/-- The state after the host took the byte `c` from OUT.slot (R95). -/
def byteTaken (c : Byte) (s : State) : State :=
  { s with outSlot := none, outCount := s.outCount + 1, host := { s.host with taken := s.host.taken ++ [c] } }

/-- An enabled move leads to a state with less to do, in which the job has the rest of its bytes left. -/
def EncProgress (bs : List Byte) (s : State) : Prop :=
  ∃ m t bs', MovesTo m s t ∧ bs = consumed s t ++ bs' ∧ EncLeft bs' t ∧ encWork bs' t < encWork bs s

section
variable {bs : List Byte} {s : State}

/-- After an enabled move the job has left what the move did not consume. -/
theorem EncLeft.after {m : Turn} {t : State} {cs : List Byte} (h : EncLeft (cs ++ bs) s) (move : MovesTo m s t)
    (seen : t.resetSeen = s.resetSeen) (lut : t.lut = s.lut) (job : t.eng.job = s.eng.job)
    (left : bs.length = t.eng.remaining.toNat) (offered : t.inSlot = none ∨ bs = [] ∨ t.inSlot = bs.head?) :
    EncLeft bs t where
  seen := seen.trans h.seen
  inv := move.inv h.seen h.inv
  job := job.trans h.job
  left := left
  offered := offered
  codes b hb := lut ▸ h.codes b (List.mem_append_right cs hb)

variable (h : EncLeft bs s)
include h

/-- A move that consumes nothing, after which there is less to do. -/
theorem EncLeft.progress {m : Turn} {t : State} (move : MovesTo m s t) (seen : t.resetSeen = s.resetSeen)
    (lut : t.lut = s.lut) (job : t.eng.job = s.eng.job) (left : t.eng.remaining = s.eng.remaining)
    (inCount : t.inCount = s.inCount) (offered : t.inSlot = s.inSlot ∨ t.inSlot = bs.head?)
    (less : encWork bs t < encWork bs s) : EncProgress bs s := by
  have offered : t.inSlot = none ∨ bs = [] ∨ t.inSlot = bs.head? := by
    rcases offered with same | first
    · rw [same]; exact h.offered
    · exact .inr (.inr first)
  exact ⟨m, t, bs, move, by rw [consumed_of_same inCount, List.nil_append],
    EncLeft.after (cs := []) h move seen lut job (left ▸ h.left) offered, less⟩

/-- A byte in OUT.slot can be taken (R95). -/
theorem EncLeft.take {c : Byte} (held : s.outSlot = some c) : EncProgress bs s := by
  have move : MovesTo .take s (byteTaken c s) := {
    guard := by simp [turnGuard, held]
    next := fun ts => congrArg _ (hostTake_of_held (s := s.setTurns ts) held) }
  refine h.progress move rfl rfl rfl rfl rfl (.inl rfl) ?_
  have after : encWork bs (byteTaken c s) = 4 * (encStream s.lut bs).length + 2 * (pending s).length +
      (if s.inSlot = none then 1 else 0) := rfl
  rw [after, encWork, held]
  exact Nat.add_lt_add_right (Nat.lt_succ_self _) _

/-- An engine step that emits one pending byte into the empty OUT.slot (R134, R135). -/
theorem EncLeft.emit {t : State} {c : Byte} {a : Bool} {p : BitVec 8} (move : MovesTo .engine s t)
    (next : t = { s with outSlot := some c, eng := { s.eng with encActive := a, encPos := p } })
    (empty : s.outSlot = none) (moved : pending s = t.outSlot.toList ++ pending t) : EncProgress bs s := by
  have less : encWork bs t < encWork bs s := by
    have full : t.outSlot = some c := by rw [next]
    have lut : t.lut = s.lut := by rw [next]
    have inSlot : t.inSlot = s.inSlot := by rw [next]
    simp only [encWork, moved, empty, full, lut, inSlot, Option.toList_some, Option.toList_none, List.length_append,
      List.length_singleton, List.length_nil]
    omega
  subst next
  exact h.progress move rfl rfl rfl rfl rfl (.inl rfl) less

/-- An open code goes on to its next character or to the space (R134, R135). -/
theorem EncLeft.serialize (empty : s.outSlot = none) (opened : s.eng.encActive = true) : EncProgress bs s := by
  obtain ⟨-, -, within⟩ := h.inv.encActiveRow opened
  rcases Nat.lt_or_eq_of_le within with more | last
  · have guard := (encEmitChar_guard_iff s).mpr ⟨h.job, opened, more, empty⟩
    exact h.emit (movesTo_engine guard fun _ => rfl) rfl empty (pending_encEmitChar guard)
  · have guard := (encEmitDelim_guard_iff s).mpr ⟨h.job, opened, last, empty⟩
    exact h.emit (movesTo_engine guard fun _ => rfl) rfl empty (pending_encEmitDelim guard)

end

/-- With IN.slot empty the next byte of the input can be offered (R94). -/
theorem EncLeft.offer {b : Byte} {bs : List Byte} {s : State} (h : EncLeft (b :: bs) s) (empty : s.inSlot = none) :
    EncProgress (b :: bs) s := by
  have move : MovesTo (.offer b) s (hostOffer b s) := ⟨by simp [turnGuard, empty], fun _ => rfl⟩
  refine h.progress move rfl rfl rfl rfl rfl (.inr rfl) ?_
  have same : pending (hostOffer b s) = pending s := rfl
  simp [encWork, same, empty]

/-- With no code open the next byte of the input, once offered, can be consumed (R132). -/
theorem EncLeft.consume {b : Byte} {bs : List Byte} {s : State} (h : EncLeft (b :: bs) s)
    (closed : s.eng.encActive = false) (offered : s.inSlot = some b) : EncProgress (b :: bs) s := by
  have length : bs.length + 1 = s.eng.remaining.toNat := h.left
  have guard := (encConsume_guard_iff s).mpr ⟨h.job, closed, by omega, b, offered⟩
  have good := h.codes b List.mem_cons_self
  have opens (ts : List Turn) : engineRun .encConsume (s.setTurns ts) = encOpened b (s.setTurns ts) :=
    encConsume_of_encodable offered good
  have move : MovesTo .engine s (encOpened b s) := by
    have move := movesTo_engine guard fun ts => by rw [opens, encConsume_of_encodable offered good]; rfl
    rwa [encConsume_of_encodable offered good] at move
  have left : bs.length = (s.eng.remaining - 1).toNat := by bv_omega
  refine ⟨.engine, encOpened b s, bs, move, by rw [consumed_of_counted offered rfl]; rfl,
    EncLeft.after (cs := [b]) h move rfl rfl rfl left (.inl rfl), ?_⟩
  have after : encWork bs (encOpened b s) =
      4 * (encStream s.lut bs).length + 2 * (encToken s.lut b).length + s.outSlot.toList.length + 1 := by
    rw [encWork, pending_encOpened]
    rfl
  have stream : encStream s.lut (b :: bs) = encToken s.lut b ++ encStream s.lut bs := rfl
  have nonempty : 0 < (encToken s.lut b).length := by simp [encToken]
  rw [after, encWork, stream, List.length_append]
  omega

/-- While input is left or a byte is owed, some move brings the end nearer. -/
theorem encProgress_or_done {bs : List Byte} {s : State} (h : EncLeft bs s) :
    EncProgress bs s ∨ (bs = [] ∧ engineGuard .encFinish s = true) := by
  cases held : s.outSlot with
  | some c => exact .inl (h.take held)
  | none =>
    cases opened : s.eng.encActive with
    | true => exact .inl (h.serialize held opened)
    | false =>
      cases bs with
      | nil =>
        have left : s.eng.remaining = 0 := BitVec.eq_of_toNat_eq h.left.symm
        exact .inr ⟨rfl, (encFinish_guard_iff s).mpr ⟨h.job, opened, left, held⟩⟩
      | cons b bs =>
        rcases h.offered with empty | nil | first
        · exact .inl (h.offer empty)
        · cases nil
        · exact .inl (h.consume opened first)

/-- ENC_FINISH ends the job with DONE (R136). -/
theorem canEnd_of_encFinish {s : State} (seen : s.resetSeen = true) (guard : engineGuard .encFinish s = true) :
    CanEnd .enc [] s := by
  obtain ⟨job, -⟩ := (encFinish_guard_iff s).mp guard
  exact ⟨[.engine], _, ⟨[], _, .start job, step_setTurns_engine [] seen guard, rfl, .inl rfl,
    (consumed_of_same rfl).symm⟩, rfl⟩

/-- An encode job of encodable bytes can end with DONE, by induction on what is left to do. -/
theorem EncLeft.canEnd {bs : List Byte} {s : State} (h : EncLeft bs s) : CanEnd .enc bs s := by
  induction hn : encWork bs s using Nat.strong_induction_on generalizing bs s with
  | _ n ih =>
    rcases encProgress_or_done h with ⟨m, t, bs', move, rfl, left, less⟩ | ⟨rfl, guard⟩
    · exact move.canEnd h.seen h.job (ih _ (hn ▸ less) left rfl)
    · exact canEnd_of_encFinish h.seen guard

/-- Settles O47: the job can end with DONE, and then its output is what every job that so ends delivers. -/
theorem encodeJobCanFinish : Obligations.EncodeJobCanFinish := by
  unfold Obligations.EncodeJobCanFinish
  intro s bs inv seen started offered left codes
  obtain ⟨ts, u, ends, done⟩ := EncLeft.canEnd ⟨seen, inv, started.jobRuns, left, offered, codes⟩
  obtain ⟨taken, -⟩ := encodeJobDeliversItsTokenStream (s.setTurns ts) u bs ((inv_setTurns s ts).mpr inv)
    (justStarted_setTurns started ts) ends done
  exact ⟨ts, u, ends, done, taken⟩

end Sys2Proof.Proofs
end

section
/-! The family of the decoder (spec/43_decoder.md), first part: DEC_START, each engine step of a decode job, and the
exact match, in the model's own terms (R150 to R160, R202). -/

namespace Sys2Proof.Proofs

open Sys2Proof.Machine Sys2Proof.Laws

/-! ## DEC_START -/

/-- A decode job on a degenerate table begins in degenerate mode (R152). -/
theorem decBegin_of_degenerate {s : State} {k : Sym} (h : s.degenerateSym = some k) :
    decBegin (beginJob .decode s) = decStarted true k s := by
  have same (e : Engine) : { beginJob .decode s with eng := e }.degenerateSym = s.degenerateSym := rfl
  simp only [decBegin, same, h]
  rfl

/-- A decode job on any other table begins outside degenerate mode (R150). -/
theorem decBegin_of_not_degenerate {s : State} (h : s.degenerateSym = none) :
    decBegin (beginJob .decode s) = decStarted false s.eng.degSym s := by
  have same (e : Engine) : { beginJob .decode s with eng := e }.degenerateSym = s.degenerateSym := rfl
  simp only [decBegin, same, h]
  rfl

/-- DEC_START of a table without a duplicate begins a decode job (R150). -/
theorem decStart_of_unique {s : State} (h : s.findDup = none) : decStart s = decBegin (beginJob .decode s) := by
  have same : (beginJob .decode s).findDup = s.findDup := rfl
  simp only [decStart, same, h]

/-- DEC_START of a table with a duplicate fails and reports the pair (R150, R205). -/
theorem decStart_of_duplicate {s : State} {p : Sym × Sym} (h : s.findDup = some p) (idle : s.eng.job = .idle) :
    decStart s = startFailed .decode .injectivity (pairInfo p) s := by
  have same : (beginJob .decode s).findDup = s.findDup := rfl
  simp only [decStart, same, h]
  exact jobError_of_idle _ _ idle

/-- Settles O25: the duplicate search decides between the start and the error, and the degenerate search, which finds
what R152 says since TABLE_COUNT counts the valid rows, decides the mode. -/
theorem decStartStartsOrReportsADuplicate : Obligations.DecStartStartsOrReportsADuplicate := by
  unfold Obligations.DecStartStartsOrReportsADuplicate
  intro s inv idle
  have degenerate := degenerateSym_iff inv.tableCountIsValidRows
  rw [exec, execDecStart, whenIdle_of_idle _ idle]
  refine ⟨fun injective k sole => ?_, fun injective nowhere => ?_, fun duplicate => ?_⟩
  · rw [decStart_of_unique ((findDup_none_iff s).mpr injective), decBegin_of_degenerate ((degenerate k).mpr sole)]
    rfl
  · have absent : s.degenerateSym = none :=
      Option.eq_none_iff_forall_ne_some.mpr fun k h => nowhere k ((degenerate k).mp h)
    rw [decStart_of_unique ((findDup_none_iff s).mpr injective), decBegin_of_not_degenerate absent]
    rfl
  · obtain ⟨⟨i, j⟩, found⟩ := Option.ne_none_iff_exists'.mp (mt (findDup_none_iff s).mp duplicate)
    refine ⟨i, j, found, ?_⟩
    rw [decStart_of_duplicate found idle]
    rfl

/-! ## The exact match -/

/-- On an injective LUT the match search finds a row exactly if it has that length and value (R160). -/
theorem matchCode_eq_some_iff {s : State} (injective : s.lut.Injective) (len : CodeLen) (v : Code) (k : Sym) :
    s.matchCode len v = some k ↔ (s.entry k).valid = true ∧ (s.entry k).len = len ∧ (s.entry k).code = v := by
  refine ⟨matchCode_some, fun row => ?_⟩
  cases found : s.matchCode len v with
  | none => exact absurd row (matchCode_none found k)
  | some j =>
    obtain ⟨valid, rfl, rfl⟩ := row
    obtain ⟨valid', len', code'⟩ := matchCode_some found
    rw [injective j k valid' valid len' code']

/-- Settles O33: DEC_START checked the LUT, and no step of the job changes it. -/
theorem matchIsExact : Obligations.MatchIsExact := by
  unfold Obligations.MatchIsExact
  exact fun s inv job len v k => matchCode_eq_some_iff (inv.decInjective job) len v k

/-! ## No error -/

/-- Settles O41: of what raises ERR, ENC_CONSUME needs an encode job and a start command no job, which leaves ABORT. -/
theorem decodeJobsRaiseNoError : Obligations.DecodeJobsRaiseNoError := by
  unfold Obligations.DecodeJobsRaiseNoError
  intro s t inv h job noAbort
  have busy : s.eng.job ≠ .idle := by rw [job]; decide
  have noError := (inv.runningUnflagged busy).2
  by_contra raised
  rcases (flagStep_of_step h).err_rises noError (by simpa using raised) with ⟨guard, -⟩ | ⟨-, abort⟩ | ⟨idle, -⟩
  · have enc := ((encConsume_guard_iff s).mp guard).1
    rw [job] at enc
    cases enc
  · exact noAbort abort
  · exact busy idle

/-! ## The end of a token -/

/-- The symbol that the open token matches: none if the token is dead (R154, R160). -/
def tokenMatch (s : State) : Option Sym :=
  if s.eng.decDead = true then none else s.matchCode s.eng.decLen s.eng.decAcc

/-- The state after a token that matches `k` has ended (R154). -/
def tokenEmitted (k : Sym) (s : State) : State :=
  { s with outSlot := some (k.setWidth 8), eng := s.eng.noToken }

/-- The state after a token that matches nothing has ended (R161). -/
def tokenSkipped (s : State) : State :=
  { s with skipCount := s.skipCount + 1, eng := s.eng.noToken }

theorem tokenMatch_of_dead {s : State} (dead : s.eng.decDead = true) : tokenMatch s = none :=
  if_pos dead

theorem tokenMatch_of_live {s : State} (live : s.eng.decDead = false) :
    tokenMatch s = s.matchCode s.eng.decLen s.eng.decAcc :=
  if_neg (Bool.eq_false_iff.mp live)

theorem endToken_of_match {s : State} {k : Sym} (h : tokenMatch s = some k) : endToken s = tokenEmitted k s := by
  unfold tokenMatch at h
  simp only [endToken, h]
  rfl

theorem endToken_of_no_match {s : State} (h : tokenMatch s = none) : endToken s = tokenSkipped s := by
  unfold tokenMatch at h
  simp only [endToken, h]
  rfl

theorem endOpenToken_of_open {s : State} (h : s.eng.decIntok = true) : endOpenToken s = endToken s :=
  if_pos h

theorem endOpenToken_of_closed {s : State} (h : s.eng.decIntok = false) : endOpenToken s = s :=
  if_neg (Bool.eq_false_iff.mp h)

/-- On a degenerate table the sole symbol is the only one with a valid row (R152). -/
theorem eq_of_degenerateAt {lut : Lut} {j k : Sym} (h : lut.DegenerateAt k) (valid : (lutAt lut j).valid = true) :
    j = k := by
  have mem : j ∈ validSyms lut := (mem_validSyms lut j).mpr valid
  simpa [h.1] using mem

/-- In degenerate mode no token matches: the one valid row has no characters, and a token has some (R152). -/
theorem tokenMatch_of_degen {s : State} (inv : s.Inv) (degen : s.eng.degen = true) (opened : s.eng.decIntok = true) :
    tokenMatch s = none := by
  cases dead : s.eng.decDead with
  | true => exact tokenMatch_of_dead dead
  | false =>
    rw [tokenMatch_of_live dead]
    by_contra found
    obtain ⟨k, found⟩ := Option.ne_none_iff_exists'.mp found
    obtain ⟨valid, len, -⟩ := matchCode_some found
    have degenerate := (inv.degenMode (inv.degenOnlyDec degen) s.eng.degSym).mp ⟨degen, rfl⟩
    obtain rfl : k = s.eng.degSym := eq_of_degenerateAt degenerate valid
    have positive := (inv.liveToken opened dead).1
    rw [← len, State.entry, degenerate.2] at positive
    simp at positive

/-- The end of a token, told of the dead and the live one: OUT.slot and SKIP_COUNT (R154, R161). -/
theorem endToken_result {s : State} (empty : s.outSlot = none) :
    ∃ o n, endToken s = { s with outSlot := o, skipCount := n, eng := s.eng.noToken } ∧
      (s.eng.decDead = true → o = none ∧ n = s.skipCount + 1) ∧
      (s.eng.decDead = false →
        (∀ k, s.matchCode s.eng.decLen s.eng.decAcc = some k → o = some (k.setWidth 8) ∧ n = s.skipCount) ∧
        (s.matchCode s.eng.decLen s.eng.decAcc = none → o = none ∧ n = s.skipCount + 1)) := by
  cases found : tokenMatch s with
  | none =>
    refine ⟨_, _, endToken_of_no_match found, fun _ => ⟨empty, rfl⟩, fun live =>
      ⟨fun k hk => ?_, fun _ => ⟨empty, rfl⟩⟩⟩
    rw [tokenMatch_of_live live, hk] at found
    cases found
  | some k =>
    refine ⟨_, _, endToken_of_match found, fun dead => ?_, fun live => ?_⟩
    · rw [tokenMatch_of_dead dead] at found
      cases found
    · rw [tokenMatch_of_live live] at found
      rw [found]
      exact ⟨fun j hj => by cases hj; exact ⟨rfl, rfl⟩, nofun⟩

/-- Settles O32: DEC_FLUSH ends the token with an empty OUT.slot, and DEC_FINISH is `finish()`. -/
theorem decFlushAndFinish : Obligations.DecFlushAndFinish := by
  unfold Obligations.DecFlushAndFinish
  refine fun s => ⟨fun guard => ?_, fun guard => ?_⟩
  · obtain ⟨-, -, -, empty⟩ := (decFlush_guard_iff s).mp guard
    rw [engineTurn_of_guard guard]
    exact endToken_result empty
  · obtain ⟨-, -, -, empty⟩ := (decFinish_guard_iff s).mp guard
    exact (engineTurn_of_guard guard).trans (finish_of_outSlot_none empty)

/-! ## DEC_CONSUME of a whitespace byte -/

/-- DEC_CONSUME of a whitespace byte ends the open token, then emits what degenerate mode asks for (R155). -/
theorem decConsume_of_whitespace {s : State} {b : Byte} (offered : s.inSlot = some b) (white : isWhitespace b = true) :
    engineRun .decConsume s = emitDegenerate b (endOpenToken s.countByte) := by
  simp only [engineRun, decConsume, offered, decConsumeByte, if_pos white]

/-- In degenerate mode a space emits the sole symbol (R152). -/
theorem emitDegenerate_of_degen {s : State} (b : Byte) (degen : s.eng.degen = true) : emitDegenerate b s =
    { s with outSlot := if b = space then some (s.eng.degSym.setWidth 8) else s.outSlot } := by
  by_cases h : b = space <;> simp [emitDegenerate, degen, h, State.putOut]

theorem emitDegenerate_of_not_degen {s : State} (b : Byte) (degen : s.eng.degen = false) : emitDegenerate b s = s := by
  simp [emitDegenerate, degen]

/-- The end of a token leaves the LUT and the mode alone (R152, R154). -/
theorem endOpenToken_mode (s : State) : (endOpenToken s).lut = s.lut ∧
    (endOpenToken s).eng.degen = s.eng.degen ∧ (endOpenToken s).eng.degSym = s.eng.degSym := by
  obtain ⟨o, n, h⟩ := endOpenToken_eq s
  rw [h]
  cases s.eng.decIntok <;> exact ⟨rfl, rfl, rfl⟩

/-- Where an open token has no match, nothing is emitted, and a token is counted if one is open (R154, R161). -/
theorem endOpenToken_of_no_match {s : State} (h : s.eng.decIntok = true → tokenMatch s = none) :
    (endOpenToken s).outSlot = s.outSlot ∧
      (endOpenToken s).skipCount = if s.eng.decIntok = true then s.skipCount + 1 else s.skipCount := by
  cases opened : s.eng.decIntok with
  | true =>
    rw [endOpenToken_of_open opened, endToken_of_no_match (h opened)]
    exact ⟨rfl, rfl⟩
  | false =>
    rw [endOpenToken_of_closed opened]
    exact ⟨rfl, rfl⟩

/-- E after a whitespace byte, whether or not a token was open: the token is closed, its value cleared (R154, R155). -/
theorem decAfterByte_of_whitespace {b : Byte} (white : isWhitespace b = true) (e : Engine) : decAfterByte b e =
    { oneLess e with
      decIntok := false
      decDead := if e.decIntok = true then false else e.decDead
      decLen := if e.decIntok = true then 0 else e.decLen
      decAcc := if e.decIntok = true then 0 else e.decAcc } := by
  rw [decAfterByte, if_pos white]
  have same : oneLess e = { oneLess e with decIntok := e.decIntok } := rfl
  cases opened : e.decIntok with
  | true => rfl
  | false => rw [opened] at same; exact same

/-- DEC_CONSUME of a whitespace byte: the byte is counted, the token closed, and OUT.slot and SKIP_COUNT are what the end
of the token and degenerate mode leave (R155). -/
theorem decConsume_whitespace_frame {s : State} {b : Byte} (offered : s.inSlot = some b)
    (white : isWhitespace b = true) : engineRun .decConsume s = { s with
      inSlot := none, inCount := s.inCount + 1, eng := decAfterByte b s.eng
      outSlot := (emitDegenerate b (endOpenToken s.countByte)).outSlot
      skipCount := (emitDegenerate b (endOpenToken s.countByte)).skipCount } := by
  have run := decConsume_of_whitespace offered white
  obtain ⟨o, n, consumed⟩ := decConsumeByte_eq b s
  have next : engineRun .decConsume s = decConsumeByte b s := by simp only [engineRun, decConsume, offered]
  rw [← run, next, consumed]

/-- Settles O31: a token open in degenerate mode matches nothing, so the symbol of a space finds OUT.slot empty; outside
degenerate mode the end of the token is all there is. -/
theorem decConsumeEndsTheToken : Obligations.DecConsumeEndsTheToken := by
  unfold Obligations.DecConsumeEndsTheToken
  intro s b inv guard offered white
  have white := (isWhitespace_iff b).mpr white
  obtain ⟨-, -, -, empty⟩ := (decConsume_guard_iff s).mp guard
  have frame := decConsume_whitespace_frame offered white
  rw [decAfterByte_of_whitespace white] at frame
  have plain (degen : s.eng.degen = false) : emitDegenerate b (endOpenToken s.countByte) = endOpenToken s.countByte :=
    emitDegenerate_of_not_degen b ((endOpenToken_mode s.countByte).2.1.trans degen)
  have ended (degen : s.eng.degen = false) (opened : s.eng.decIntok = true) :
      emitDegenerate b (endOpenToken s.countByte) = endToken s.countByte :=
    (plain degen).trans (endOpenToken_of_open (s := s.countByte) opened)
  obtain ⟨o, n, token, dead, live⟩ := endToken_result (s := s.countByte) empty
  refine ⟨_, _, (engineTurn_of_guard guard).trans frame, fun degen => ?degenerate, fun degen closed => ?closed,
    fun degen opened isDead => ?dead, fun degen opened isLive => ?live⟩
  case degenerate =>
    have noMatch := tokenMatch_of_degen inv degen
    obtain ⟨slot, count⟩ := endOpenToken_of_no_match (s := s.countByte) noMatch
    obtain ⟨-, mode, sym⟩ := endOpenToken_mode s.countByte
    rw [emitDegenerate_of_degen b (mode.trans degen)]
    exact ⟨by rw [sym, slot, countByte_outSlot, empty]; rfl, count⟩
  case closed =>
    obtain ⟨slot, count⟩ := endOpenToken_of_no_match (s := s.countByte) fun opened => absurd opened (by simp [closed])
    rw [plain degen]
    exact ⟨slot.trans empty, by simpa [closed] using count⟩
  case dead =>
    rw [ended degen opened, token]
    exact dead isDead
  case live =>
    rw [ended degen opened, token]
    exact live isLive

/-! ## DEC_CONSUME of a token byte -/

/-- A byte that a code string can have: '0' or '1' (R10, R154). -/
def IsBit (b : Byte) : Prop :=
  b = 0x30 ∨ b = 0x31

/-- DEC_CONSUME of a token byte extends the token (R155). -/
theorem decConsume_of_token {s : State} {b : Byte} (offered : s.inSlot = some b) (token : isWhitespace b = false) :
    engineRun .decConsume s = { s.countByte with eng := (oneLess s.eng).openToken.accumulate b } := by
  simp only [engineRun, decConsume, offered, decConsumeByte, if_neg (Bool.eq_false_iff.mp token)]
  rfl

theorem openToken_of_open {e : Engine} (h : e.decIntok = true) : e.openToken = e :=
  if_pos h

theorem openToken_of_closed {e : Engine} (h : e.decIntok = false) :
    e.openToken = { e.noToken with decIntok := true } :=
  if_neg (Bool.eq_false_iff.mp h)

/-- A dead token stays as it is (R164). -/
theorem accumulate_of_dead {e : Engine} (b : Byte) (dead : e.decDead = true) : e.accumulate b = e :=
  if_pos dead

/-- E with one character more in the open token (R154). -/
def bitAdded (b : Byte) (e : Engine) : Engine :=
  { e with decAcc := (e.decAcc <<< 1) ||| (b - char0).setWidth 127, decLen := e.decLen + 1 }

/-- A character of a token that is short enough is accumulated (R154). -/
theorem accumulate_of_bit {e : Engine} {b : Byte} (live : e.decDead = false) (bit : IsBit b)
    (short : e.decLen.toNat ≠ 127) : e.accumulate b = bitAdded b e := by
  have keeps : ¬((b ≠ char0 ∧ b ≠ char1) ∨ e.decLen.toNat = Config.maxCodeLen) := by
    rintro (⟨no0, no1⟩ | long)
    · exact bit.elim no0 no1
    · exact short long
  rw [Engine.accumulate, if_neg (Bool.eq_false_iff.mp live), if_neg keeps, bitAdded]

/-- Any other byte, or one character too many, makes the token dead (R164). -/
theorem accumulate_of_not_bit_or_long {e : Engine} {b : Byte} (live : e.decDead = false)
    (kills : ¬IsBit b ∨ e.decLen.toNat = 127) : e.accumulate b = { e with decDead := true } := by
  have kills : (b ≠ char0 ∧ b ≠ char1) ∨ e.decLen.toNat = Config.maxCodeLen := kills.imp_left not_or.mp
  rw [Engine.accumulate, if_neg (Bool.eq_false_iff.mp live), if_pos kills]

/-- Settles O30: a token byte opens the token if none is open, and then is accumulated or makes the token dead. -/
theorem decConsumeExtendsTheToken : Obligations.DecConsumeExtendsTheToken := by
  unfold Obligations.DecConsumeExtendsTheToken
  intro s b guard offered token
  have token : isWhitespace b = false := Bool.eq_false_iff.mpr (mt (isWhitespace_iff b).mp token)
  refine ⟨_, (engineTurn_of_guard guard).trans (decConsume_of_token offered token), ?frame, fun closed bit => ?openBit,
    fun closed other => ?openOther, fun opened dead => ?dead, fun opened live bit short => ?bit,
    fun opened live kills => ?killed⟩
  case frame =>
    obtain ⟨d, l, a, extended⟩ := openToken_accumulate_eq b (oneLess s.eng)
    rw [extended]
    rfl
  case openBit =>
    have short : (0 : CodeLen).toNat ≠ 127 := by decide
    rw [openToken_of_closed (e := oneLess s.eng) closed, accumulate_of_bit rfl bit short]
    exact ⟨rfl, rfl, (accumulated_toNat 0 0 b bit short (by decide)).1.trans (Nat.zero_add _)⟩
  case openOther =>
    rw [openToken_of_closed (e := oneLess s.eng) closed, accumulate_of_not_bit_or_long rfl (.inl other)]
  case dead =>
    rw [openToken_of_open (e := oneLess s.eng) opened, accumulate_of_dead b (e := oneLess s.eng) dead]
    exact dead
  case bit =>
    have short : s.eng.decLen.toNat ≠ 127 := fun h => short (BitVec.eq_of_toNat_eq h)
    rw [openToken_of_open (e := oneLess s.eng) opened, accumulate_of_bit (e := oneLess s.eng) live bit short]
    exact ⟨live, rfl, fun fits => (accumulated_toNat _ _ b bit short fits).1⟩
  case killed =>
    have kills : ¬IsBit b ∨ s.eng.decLen.toNat = 127 := kills.imp_right (congrArg BitVec.toNat)
    rw [openToken_of_open (e := oneLess s.eng) opened, accumulate_of_not_bit_or_long (e := oneLess s.eng) live kills]

end Sys2Proof.Proofs
end

section
/-! The family of the decoder (spec/43_decoder.md), second part: tokens as bytes (R151 to R164). A row and its code
string determine each other, so the engine's match of the open token is the table's lookup of its bytes. -/

namespace Sys2Proof.Proofs

open Sys2Proof.Machine Sys2Proof.Laws

/-! ## Code strings -/

theorem bitChar_isBit (v : Bool) : IsBit (bitChar v) := by
  cases v
  · exact .inl rfl
  · exact .inr rfl

theorem exists_bitChar {b : Byte} (h : IsBit b) : ∃ v, b = bitChar v := by
  rcases h with rfl | rfl
  · exact ⟨false, rfl⟩
  · exact ⟨true, rfl⟩

theorem bitChar_injective : Function.Injective bitChar := by
  decide

/-- A code string is of '0's and '1's (R10, R13). -/
theorem isBit_of_mem_chars {e : Entry} {b : Byte} (h : b ∈ e.chars) : IsBit b := by
  obtain ⟨v, -, rfl⟩ := List.mem_map.mp h
  exact bitChar_isBit v

/-- Rows whose codes have no bit from their length on have the same code string exactly if they have the same length and
value (R13, R47 (f)). -/
theorem chars_eq_iff {e e' : Entry} (below : ∀ i, e.len.toNat ≤ i → e.code.getLsbD i = false)
    (below' : ∀ i, e'.len.toNat ≤ i → e'.code.getLsbD i = false) :
    e.chars = e'.chars ↔ e.len = e'.len ∧ e.code = e'.code := by
  refine ⟨fun same => ?_, fun ⟨len, code⟩ => by simp only [Entry.chars, Entry.bits, len, code]⟩
  have len : e.len.toNat = e'.len.toNat := by simpa using congrArg List.length same
  refine ⟨BitVec.eq_of_toNat_eq len, BitVec.eq_of_getLsbD_eq fun i _ => ?_⟩
  rcases Nat.lt_or_ge i e.len.toNat with inside | outside
  · have index : e.len.toNat - 1 - (e.len.toNat - 1 - i) = i := by omega
    have char := List.getElem_of_eq same (i := e.len.toNat - 1 - i) (by rw [chars_length]; omega)
    rw [chars_getElem, chars_getElem, ← len, index] at char
    exact bitChar_injective char
  · rw [below i outside, below' i (len ▸ outside)]

/-- On an injective LUT the lookup of a token finds a row exactly if the token is its code string (R160). -/
theorem tokenSym_eq_some_iff {lut : Lut} (injective : lut.Injective) (rows : ∀ k, RowOk (lutAt lut k))
    (tok : List Byte) (k : Sym) :
    tokenSym lut tok = some k ↔ (lutAt lut k).valid = true ∧ (lutAt lut k).chars = tok := by
  have sound {j : Sym} (found : tokenSym lut tok = some j) :
      (lutAt lut j).valid = true ∧ (lutAt lut j).chars = tok := by simpa using List.find?_some found
  refine ⟨sound, fun row => ?_⟩
  cases found : tokenSym lut tok with
  | none =>
    have := List.find?_eq_none.mp found k (mem_allSyms k)
    simp [row] at this
  | some j =>
    obtain ⟨valid, chars⟩ := sound found
    obtain ⟨len, code⟩ := (chars_eq_iff (rows j).codeBelowLen (rows k).codeBelowLen).mp (chars.trans row.2.symm)
    rw [injective j k valid row.1 len code]

/-! ## Dead tokens -/

/-- A token with a byte other than '0' and '1', or of more than 127 bytes (R164). -/
def DeadToken (tok : List Byte) : Prop :=
  (∃ b ∈ tok, ¬IsBit b) ∨ 127 < tok.length

theorem DeadToken.append {tok : List Byte} (h : DeadToken tok) (more : List Byte) : DeadToken (tok ++ more) := by
  rcases h with ⟨b, mem, other⟩ | long
  · exact .inl ⟨b, List.mem_append_left more mem, other⟩
  · exact .inr (by rw [List.length_append]; omega)

/-- No row has a dead token as its code string (R164). -/
theorem chars_ne_of_deadToken {tok : List Byte} (h : DeadToken tok) (e : Entry) : e.chars ≠ tok := by
  rintro rfl
  rcases h with ⟨b, mem, other⟩ | long
  · exact other (isBit_of_mem_chars mem)
  · rw [chars_length] at long
    exact Nat.not_lt.mpr (Nat.le_of_lt_succ e.len.isLt) long

theorem tokenSym_of_deadToken {tok : List Byte} (h : DeadToken tok) (lut : Lut) : tokenSym lut tok = none := by
  refine List.find?_eq_none.mpr fun k _ => ?_
  simp [chars_ne_of_deadToken h]

/-- Settles O52: code strings are of '0's and '1's, and no longer than LEN can say. -/
theorem deadTokensMatchNothing : Obligations.DeadTokensMatchNothing := by
  unfold Obligations.DeadTokensMatchNothing
  refine fun lut tok dead => tokenSym_of_deadToken (dead.imp_left ?_) lut
  exact fun ⟨b, mem, no0, no1⟩ => ⟨b, mem, not_or.mpr ⟨no0, no1⟩⟩

/-! ## The open token -/

/-- The row that the open token would match exactly (R160). -/
def tokenRow (e : Engine) : Entry where
  valid := true
  len   := e.decLen
  code  := e.decAcc

/-- E holds the bytes of this token: their value and number, or that they are dead (R154, R164). -/
def Spells (e : Engine) (tok : List Byte) : Prop :=
  if e.decDead = true then DeadToken tok else (tokenRow e).chars = tok

theorem spells_of_dead {e : Engine} {tok : List Byte} (dead : e.decDead = true) : Spells e tok ↔ DeadToken tok := by
  rw [Spells, if_pos dead]

theorem spells_of_live {e : Engine} {tok : List Byte} (live : e.decDead = false) :
    Spells e tok ↔ (tokenRow e).chars = tok := by
  rw [Spells, if_neg (Bool.eq_false_iff.mp live)]

/-- A character added is bit 0 of the value, and the bits before it have moved up by one (R154). -/
theorem bitAdded_getLsbD (v : Bool) (e : Engine) : (bitAdded (bitChar v) e).decAcc.getLsbD 0 = v ∧
    ∀ j, j + 1 < 127 → (bitAdded (bitChar v) e).decAcc.getLsbD (j + 1) = e.decAcc.getLsbD j := by
  have low (j : Nat) : ((bitChar v - char0).setWidth 127).getLsbD j = (decide (j = 0) && v) := by
    cases v <;> simp [bitChar, char0]
  refine ⟨?_, fun j hj => ?_⟩
  · rw [bitAdded, BitVec.getLsbD_or, low]
    simp
  · rw [bitAdded, BitVec.getLsbD_or, low, BitVec.getLsbD_shiftLeft]
    simp [hj]

/-- The code string of the token has that character more (R13, R154). -/
theorem chars_bitAdded {e : Engine} {b : Byte} (bit : IsBit b) (short : e.decLen.toNat ≠ 127) :
    (tokenRow (bitAdded b e)).chars = (tokenRow e).chars ++ [b] := by
  have len : (bitAdded b e).decLen.toNat = e.decLen.toNat + 1 := by
    change (e.decLen + 1).toNat = _
    bv_omega
  obtain ⟨v, rfl⟩ := exists_bitChar bit
  obtain ⟨last, moved⟩ := bitAdded_getLsbD v e
  simp only [Entry.chars, Entry.bits, tokenRow, len, List.range_succ, List.map_append, List.map_map, List.map_singleton]
  congr 1
  · refine List.map_congr_left fun i hi => congrArg bitChar ?_
    have inside := List.mem_range.mp hi
    have index : e.decLen.toNat + 1 - 1 - i = (e.decLen.toNat - 1 - i) + 1 := by omega
    change BitVec.getLsbD _ (e.decLen.toNat + 1 - 1 - i) = _
    rw [index, moved _ (by omega)]
  · rw [Nat.add_sub_cancel, Nat.sub_self, last]

/-- `extend` of a token byte adds it to the bytes (R154). -/
theorem Spells.accumulate {e : Engine} {tok : List Byte} (h : Spells e tok) (b : Byte) :
    Spells (e.accumulate b) (tok ++ [b]) := by
  cases dead : e.decDead with
  | true =>
    rw [accumulate_of_dead b dead, spells_of_dead dead]
    exact ((spells_of_dead dead).mp h).append [b]
  | false =>
    have chars := (spells_of_live dead).mp h
    by_cases kills : ¬IsBit b ∨ e.decLen.toNat = 127
    · rw [accumulate_of_not_bit_or_long dead kills, spells_of_dead rfl]
      refine kills.imp (fun other => ⟨b, by simp, other⟩) fun long => ?_
      have : tok.length = 127 := by rw [← chars, chars_length]; exact long
      simp [this]
    · obtain ⟨bit, short⟩ := not_or.mp kills
      have bit := not_not.mp bit
      have same : (bitAdded b e).decDead = false := dead
      rw [accumulate_of_bit dead bit short, spells_of_live same, chars_bitAdded bit short, chars]

/-- These are the bytes of the open token; there are none exactly if no token is open (R153, R154). -/
structure TokenIs (cur : List Byte) (e : Engine) : Prop where
  opened : e.decIntok = !cur.isEmpty
  spells : e.decIntok = true → Spells e cur

theorem tokenIs_nil {e : Engine} (closed : e.decIntok = false) : TokenIs [] e :=
  ⟨closed, by simp [closed]⟩

theorem TokenIs.eq_nil {cur : List Byte} {e : Engine} (h : TokenIs cur e) (closed : e.decIntok = false) : cur = [] := by
  simpa [closed] using h.opened

theorem TokenIs.ne_nil {cur : List Byte} {e : Engine} (h : TokenIs cur e) (opened : e.decIntok = true) : cur ≠ [] := by
  simpa [opened] using h.opened

/-- `extend(b)` adds the byte to the token, opening one if none is open (R154). -/
theorem TokenIs.extend {cur : List Byte} {e : Engine} (h : TokenIs cur e) (b : Byte) :
    TokenIs (cur ++ [b]) (e.openToken.accumulate b) := by
  have spells : Spells e.openToken cur := by
    cases opened : e.decIntok with
    | true =>
      rw [openToken_of_open opened]
      exact h.spells opened
    | false =>
      rw [openToken_of_closed opened, h.eq_nil opened, spells_of_live rfl]
      rfl
  obtain ⟨d, l, a, extended⟩ := openToken_accumulate_eq b e
  exact ⟨by simp [extended], fun _ => spells.accumulate b⟩

/-- A value below 2^n has no bit from n on. -/
theorem getLsbD_of_toNat_lt {v : Code} {n i : Nat} (h : v.toNat < 2 ^ n) (hi : n ≤ i) : v.getLsbD i = false :=
  Nat.testBit_lt_two_pow (h.trans_le (Nat.pow_le_pow_right (by decide) hi))

/-- The open token matches the symbol that the table gives for its bytes (R160, R163). -/
theorem tokenMatch_eq_tokenSym {s : State} {cur : List Byte} (inv : s.Inv) (token : TokenIs cur s.eng)
    (opened : s.eng.decIntok = true) : tokenMatch s = tokenSym s.lut cur := by
  have spells := token.spells opened
  cases dead : s.eng.decDead with
  | true => rw [tokenMatch_of_dead dead, tokenSym_of_deadToken ((spells_of_dead dead).mp spells)]
  | false =>
    have rows := ((inv_iff s).mp inv).1.rows
    have injective := inv.decInjective (inv.tokenOnlyDec opened)
    have fits := (inv.liveToken opened dead).2
    have row (k : Sym) := chars_eq_iff (rows k).codeBelowLen (e' := tokenRow s.eng) fun i => getLsbD_of_toNat_lt fits
    rw [tokenMatch_of_live dead]
    refine Option.ext fun k => ?_
    rw [matchCode_eq_some_iff injective, tokenSym_eq_some_iff injective rows, ← (spells_of_live dead).mp spells, row]
    rfl

end Sys2Proof.Proofs
end

section
/-! The family of the decoder (spec/43_decoder.md), third part: what a stream makes of a decoder, as a list of events,
each a symbol delivered or a token skipped, byte by byte as the engine has them; they are those of R163. -/

namespace Sys2Proof.Proofs

open Sys2Proof.Machine Sys2Proof.Laws

/-! ## Degenerate tables -/

/-- The sole symbol of a degenerate table is the one of R152. -/
theorem degenerateOf_eq_some_iff (lut : Lut) (k : Sym) : degenerateOf lut = some k ↔ lut.DegenerateAt k := by
  unfold degenerateOf Lut.DegenerateAt
  split
  · rename_i j sole
    rw [sole]
    constructor
    · intro h
      split at h
      · rename_i len
        obtain rfl : j = k := Option.some.inj h
        exact ⟨rfl, len⟩
      · cases h
    · rintro ⟨same, len⟩
      obtain rfl : j = k := by simpa using same
      exact if_pos len
  · rename_i other
    exact ⟨nofun, fun h => absurd h.1 (other k)⟩

/-- On a degenerate table no token matches: the one code string is empty (R152). -/
theorem tokenSym_of_degenerate {lut : Lut} {k : Sym} (h : lut.DegenerateAt k) {tok : List Byte} (ne : tok ≠ []) :
    tokenSym lut tok = none := by
  refine List.find?_eq_none.mpr fun j _ found => ?_
  obtain ⟨valid, chars⟩ : (lutAt lut j).valid = true ∧ (lutAt lut j).chars = tok := by simpa using found
  obtain rfl : j = k := eq_of_degenerateAt h valid
  refine ne (List.eq_nil_of_length_eq_zero ?_)
  rw [← chars, chars_length, h.2]
  rfl

/-- While a decode job runs the mode is the one of the table (R152). -/
theorem degenerateOf_of_dec {s : State} (inv : s.Inv) (job : s.eng.job = .dec) :
    degenerateOf s.lut = if s.eng.degen = true then some s.eng.degSym else none := by
  refine Option.ext fun k => ?_
  rw [degenerateOf_eq_some_iff, ← inv.degenMode job k]
  cases s.eng.degen <;> simp

/-! ## Events -/

/-- What the end of a token is: its symbol, or a skip; nothing if no token is open (R160, R161). -/
def tokenEvents (lut : Lut) (tok : List Byte) : List (Option Sym) :=
  if tok.isEmpty then [] else [tokenSym lut tok]

/-- What a whitespace byte adds: in degenerate mode a space is the sole symbol (R152). -/
def spaceEvents (lut : Lut) (b : Byte) : List (Option Sym) :=
  if b = space then (degenerateOf lut).toList.map some else []

/-- The events of a stream, `cur` being the bytes of the token that is open (R153, R155, R157). -/
def decEvents (lut : Lut) (cur : List Byte) : List Byte → List (Option Sym)
  | [] => tokenEvents lut cur
  | b :: u =>
    if isWhitespace b = true then tokenEvents lut cur ++ spaceEvents lut b ++ decEvents lut [] u
    else decEvents lut (cur ++ [b]) u

/-- The bytes that events deliver (R154). -/
def delivered (ev : List (Option Sym)) : List Byte :=
  ev.reduceOption.map (·.setWidth 8)

/-- How many tokens are skipped (R161). -/
def skipped (ev : List (Option Sym)) : Nat :=
  ev.count none

@[simp] theorem delivered_append (ev ev' : List (Option Sym)) :
    delivered (ev ++ ev') = delivered ev ++ delivered ev' := by
  simp [delivered, List.reduceOption_append]

@[simp] theorem skipped_append (ev ev' : List (Option Sym)) : skipped (ev ++ ev') = skipped ev + skipped ev' :=
  List.count_append

@[simp] theorem delivered_nil : delivered [] = [] := rfl
@[simp] theorem skipped_nil : skipped [] = 0 := rfl
@[simp] theorem delivered_some (k : Sym) : delivered [some k] = [k.setWidth 8] := rfl
@[simp] theorem skipped_some (k : Sym) : skipped [some k] = 0 := rfl
@[simp] theorem delivered_none : delivered [none] = [] := rfl
@[simp] theorem skipped_none : skipped [none] = 1 := rfl

@[simp] theorem tokenEvents_nil (lut : Lut) : tokenEvents lut [] = [] := rfl

theorem tokenEvents_of_ne_nil (lut : Lut) {tok : List Byte} (h : tok ≠ []) : tokenEvents lut tok = [tokenSym lut tok] :=
  if_neg (by simpa using h)

theorem spaceEvents_of_not_degenerate {lut : Lut} (h : degenerateOf lut = none) (b : Byte) :
    spaceEvents lut b = [] := by
  simp [spaceEvents, h]

theorem spaceEvents_of_degenerate {lut : Lut} {k : Sym} (h : degenerateOf lut = some k) (b : Byte) :
    spaceEvents lut b = if b = space then [some k] else [] := by
  simp [spaceEvents, h]

theorem decEvents_whitespace (lut : Lut) (cur u : List Byte) {b : Byte} (h : isWhitespace b = true) :
    decEvents lut cur (b :: u) = tokenEvents lut cur ++ spaceEvents lut b ++ decEvents lut [] u :=
  if_pos h

theorem decEvents_token (lut : Lut) (cur u : List Byte) {b : Byte} (h : isWhitespace b = false) :
    decEvents lut cur (b :: u) = decEvents lut (cur ++ [b]) u :=
  if_neg (Bool.eq_false_iff.mp h)

/-! ## The events are those of R163 -/

theorem tokensFrom_whitespace (cur u : List Byte) {b : Byte} (h : isWhitespace b = true) :
    tokensFrom cur (b :: u) = (if cur.isEmpty then [] else [cur]) ++ tokensFrom [] u := by
  rw [tokensFrom, if_pos h]
  split <;> rfl

theorem tokensFrom_token (cur u : List Byte) {b : Byte} (h : isWhitespace b = false) :
    tokensFrom cur (b :: u) = tokensFrom (cur ++ [b]) u :=
  if_neg (Bool.eq_false_iff.mp h)

/-- Outside degenerate mode there is one event for each token (R163). -/
theorem decEvents_of_not_degenerate {lut : Lut} (h : degenerateOf lut = none) (cur u : List Byte) :
    decEvents lut cur u = (tokensFrom cur u).map (tokenSym lut) := by
  have last (cur : List Byte) :
      tokenEvents lut cur = (if cur.isEmpty = true then [] else [cur]).map (tokenSym lut) := by
    unfold tokenEvents
    split <;> rfl
  induction u generalizing cur with
  | nil => exact last cur
  | cons b u ih =>
    cases white : isWhitespace b with
    | true =>
      rw [decEvents_whitespace lut cur u white, tokensFrom_whitespace cur u white, spaceEvents_of_not_degenerate h,
        List.append_nil, List.map_append, ih, last]
    | false => rw [decEvents_token lut cur u white, tokensFrom_token cur u white, ih]

/-- In degenerate mode every space delivers the sole symbol and every token is skipped (R152, R163). -/
theorem decEvents_of_degenerate {lut : Lut} {k : Sym} (h : degenerateOf lut = some k) (cur u : List Byte) :
    delivered (decEvents lut cur u) = (u.filter (· == space)).map (fun _ => k.setWidth 8) ∧
      skipped (decEvents lut cur u) = (tokensFrom cur u).length := by
  have last (cur : List Byte) : delivered (tokenEvents lut cur) = [] ∧
      skipped (tokenEvents lut cur) = (if cur.isEmpty = true then [] else [cur]).length := by
    cases cur with
    | nil => exact ⟨rfl, rfl⟩
    | cons b bs =>
      rw [tokenEvents_of_ne_nil lut (by simp), tokenSym_of_degenerate ((degenerateOf_eq_some_iff lut k).mp h) (by simp)]
      exact ⟨rfl, rfl⟩
  induction u generalizing cur with
  | nil => exact last cur
  | cons b u ih =>
    cases white : isWhitespace b with
    | true =>
      rw [decEvents_whitespace lut cur u white, tokensFrom_whitespace cur u white, spaceEvents_of_degenerate h]
      simp only [delivered_append, skipped_append, ih, last, List.length_append]
      by_cases sp : b = space <;> simp [sp]
    | false =>
      have noSpace : b ≠ space := by
        rintro rfl
        cases white
      rw [decEvents_token lut cur u white, tokensFrom_token cur u white, (ih _).1, (ih _).2]
      simp [noSpace]

/-- What a decode job delivers are the symbols among the events (R163). -/
theorem decStream_eq_delivered (lut : Lut) (u : List Byte) : decStream lut u = delivered (decEvents lut [] u) := by
  unfold decStream
  split
  · rename_i k h
    exact (decEvents_of_degenerate h [] u).1.symm
  · rename_i h
    rw [decEvents_of_not_degenerate h, delivered, List.reduceOption, List.filterMap_map]
    rfl

/-- The tokens a decode job skips are the others (R163). -/
theorem decSkips_eq_skipped (lut : Lut) (u : List Byte) : decSkips lut u = skipped (decEvents lut [] u) := by
  unfold decSkips
  split
  · rename_i k h
    exact (decEvents_of_degenerate h [] u).2.symm
  · rename_i h
    rw [decEvents_of_not_degenerate h, skipped, List.count_eq_countP, List.countP_map, List.countP_eq_length_filter]
    congr 2
    funext tok
    cases found : tokenSym lut tok <;> simp [found]

end Sys2Proof.Proofs
end

section
/-! The family of the decoder (spec/43_decoder.md), fourth part: a decode job, whatever the interleaving, delivers the
matched symbols and counts the other tokens (R163). The events of the bytes consumed have happened, but for those that the open
token still waits for: whatever the rest of the input is, its events complete those of the whole. -/

namespace Sys2Proof.Proofs

open Sys2Proof.Machine Sys2Proof.Laws

/-! ## Events that happened -/

/-- From `s` to `t` these events happened: the symbols were put out, for the host to take, and the skips were counted. -/
structure Did (ev : List (Option Sym)) (s t : State) : Prop where
  skips : t.skipCount = s.skipCount + BitVec.ofNat 32 (skipped ev)
  out : ∃ out, Delivers out s t ∧ out ++ t.outSlot.toList = s.outSlot.toList ++ delivered ev

theorem Did.trans {ev ev' : List (Option Sym)} {s t u : State} (h : Did ev s t) (h' : Did ev' t u) :
    Did (ev ++ ev') s u where
  skips := by rw [h'.skips, h.skips, skipped_append, BitVec.ofNat_add, BitVec.add_assoc]
  out := by
    obtain ⟨out, delivers, slot⟩ := h.out
    obtain ⟨out', delivers', slot'⟩ := h'.out
    refine ⟨out ++ out', delivers.trans delivers', ?_⟩
    rw [List.append_assoc, slot', ← List.append_assoc, slot, List.append_assoc, delivered_append]

/-- A move of the host is no event. -/
theorem HostMoved.did {s t : State} (h : HostMoved s t) : Did [] s t where
  skips := by simp [h.skipCount]
  out := by
    obtain ⟨out, delivers, slot⟩ := h.out
    exact ⟨out, delivers, by simp [slot]⟩

/-- A step of the engine, which takes nothing for the host. -/
theorem did_of_slot {ev : List (Option Sym)} {s t : State} (taken : t.host.taken = s.host.taken)
    (outCount : t.outCount = s.outCount) (skips : t.skipCount = s.skipCount + BitVec.ofNat 32 (skipped ev))
    (slot : t.outSlot.toList = s.outSlot.toList ++ delivered ev) : Did ev s t :=
  ⟨skips, [], delivers_nil taken outCount, slot⟩

/-- A step of the engine that leaves OUT.slot and SKIP_COUNT alone is no event. -/
theorem did_nil {s t : State} (taken : t.host.taken = s.host.taken) (outCount : t.outCount = s.outCount)
    (skips : t.skipCount = s.skipCount) (slot : t.outSlot = s.outSlot) : Did [] s t :=
  did_of_slot taken outCount (by simp [skips]) (by simp [slot])

/-- The end of a token is its event (R154, R161). -/
theorem did_endToken {s : State} (empty : s.outSlot = none) : Did [tokenMatch s] s (endToken s) := by
  cases found : tokenMatch s with
  | none =>
    rw [endToken_of_no_match found]
    exact did_of_slot rfl rfl rfl (List.append_nil _).symm
  | some k =>
    rw [endToken_of_match found]
    exact did_of_slot rfl rfl (BitVec.add_zero _).symm (by rw [empty]; rfl)

/-- A whitespace byte ends the token that is open, and is no event of a token if none is (R155). -/
theorem did_endOpenToken {s : State} {cur : List Byte} (token : TokenIs cur s.eng) (empty : s.outSlot = none)
    (lookup : s.eng.decIntok = true → tokenMatch s = tokenSym s.lut cur) :
    Did (tokenEvents s.lut cur) s (endOpenToken s) := by
  cases opened : s.eng.decIntok with
  | true =>
    rw [endOpenToken_of_open opened, tokenEvents_of_ne_nil s.lut (token.ne_nil opened), ← lookup opened]
    exact did_endToken empty
  | false =>
    rw [endOpenToken_of_closed opened, token.eq_nil opened]
    exact did_nil rfl rfl rfl rfl

/-- In degenerate mode a space is the event of the sole symbol (R152). -/
theorem did_emitDegenerate {s : State} (b : Byte)
    (mode : degenerateOf s.lut = if s.eng.degen = true then some s.eng.degSym else none)
    (empty : s.eng.degen = true → s.outSlot = none) : Did (spaceEvents s.lut b) s (emitDegenerate b s) := by
  cases degen : s.eng.degen with
  | true =>
    rw [spaceEvents_of_degenerate (mode.trans (if_pos degen)), emitDegenerate_of_degen b degen]
    by_cases sp : b = space
    · rw [if_pos sp, if_pos sp]
      exact did_of_slot rfl rfl (BitVec.add_zero _).symm (by rw [empty degen]; rfl)
    · rw [if_neg sp, if_neg sp]
      exact did_nil rfl rfl rfl rfl
  | false =>
    rw [spaceEvents_of_not_degenerate (mode.trans (by simp [degen])), emitDegenerate_of_not_degen b degen]
    exact did_nil rfl rfl rfl rfl

/-! ## A job on its way -/

/-- From `s`, where the open token is `cur`, to `t`, where it is `cur'`, a decode job consumed these bytes; what happened
is what the whole stream makes, without what the bytes that are left will make of `cur'`. -/
structure Decodes (s : State) (cur bs : List Byte) (t : State) (cur' : List Byte) : Prop where
  lut : t.lut = s.lut
  left : s.eng.remaining.toNat = bs.length + t.eng.remaining.toNat
  token : TokenIs cur' t.eng
  events : ∃ ev, Did ev s t ∧ ∀ rest : List Byte, rest.length = t.eng.remaining.toNat →
    decEvents s.lut cur (bs ++ rest) = ev ++ decEvents s.lut cur' rest

theorem Decodes.trans {s t u : State} {cur cur' cur'' bs cs : List Byte} (h : Decodes s cur bs t cur')
    (h' : Decodes t cur' cs u cur'') : Decodes s cur (bs ++ cs) u cur'' where
  lut := h'.lut.trans h.lut
  left := by rw [h.left, h'.left, List.length_append, Nat.add_assoc]
  token := h'.token
  events := by
    obtain ⟨ev, did, stream⟩ := h.events
    obtain ⟨ev', did', stream'⟩ := h'.events
    refine ⟨ev ++ ev', did.trans did', fun rest length => ?_⟩
    rw [h.lut] at stream'
    rw [List.append_assoc, stream (cs ++ rest) (by rw [h'.left, List.length_append, length]), stream' rest length,
      List.append_assoc]

/-- A move that neither consumes a byte nor touches the job. -/
theorem decodes_of_same {s t : State} {cur : List Byte} (token : TokenIs cur s.eng) (eng : t.eng = s.eng)
    (lut : t.lut = s.lut) (did : Did [] s t) : Decodes s cur [] t cur :=
  ⟨lut, by rw [eng]; simp, eng ▸ token, [], did, fun _ _ => rfl⟩

/-! ## The engine steps of a decode job -/

/-- DEC_CONSUME of a whitespace byte: the token's event and the space's (R155). -/
theorem decodes_whitespace {s : State} {cur : List Byte} {b : Byte} (inv : s.Inv) (token : TokenIs cur s.eng)
    (guard : engineGuard .decConsume s = true) (offered : s.inSlot = some b) (white : isWhitespace b = true) :
    Decodes s cur [b] (engineRun .decConsume s) [] := by
  obtain ⟨job, more, -, empty⟩ := (decConsume_guard_iff s).mp guard
  have lookup := tokenMatch_eq_tokenSym inv token
  have eng := congrArg State.eng (decConsume_whitespace_frame offered white)
  rw [decAfterByte_of_whitespace white] at eng
  obtain ⟨lut, -⟩ := engineRun_frame .decConsume s
  have counted : Did [] s s.countByte := did_nil rfl rfl rfl rfl
  have ended : Did (tokenEvents s.lut cur) s.countByte (endOpenToken s.countByte) :=
    did_endOpenToken (s := s.countByte) ⟨token.opened, token.spells⟩ empty lookup
  have spaced : Did (spaceEvents s.lut b) (endOpenToken s.countByte) (engineRun .decConsume s) := by
    obtain ⟨same, degen, sym⟩ := endOpenToken_mode s.countByte
    have same : (endOpenToken s.countByte).lut = s.lut := same
    have mode := degenerateOf_of_dec inv job
    rw [decConsume_of_whitespace offered white, ← same]
    refine did_emitDegenerate b (by rw [same, degen, sym]; exact mode) fun isDegen => ?_
    have noMatch := tokenMatch_of_degen inv (degen.symm.trans isDegen)
    obtain ⟨slot, -⟩ := endOpenToken_of_no_match (s := s.countByte) noMatch
    exact slot.trans empty
  refine ⟨lut, ?_, tokenIs_nil (by rw [eng]), _, counted.trans (ended.trans spaced), fun rest _ => ?_⟩
  · rw [eng]
    change _ = 1 + (s.eng.remaining - 1).toNat
    bv_omega
  · rw [List.singleton_append, decEvents_whitespace s.lut cur rest white]
    rfl

/-- DEC_CONSUME of a token byte: no event yet (R155). -/
theorem decodes_token {s : State} {cur : List Byte} {b : Byte} (token : TokenIs cur s.eng)
    (guard : engineGuard .decConsume s = true) (offered : s.inSlot = some b) (other : isWhitespace b = false) :
    Decodes s cur [b] (engineRun .decConsume s) (cur ++ [b]) := by
  obtain ⟨-, more, -⟩ := (decConsume_guard_iff s).mp guard
  have same : TokenIs cur (oneLess s.eng) := ⟨token.opened, token.spells⟩
  obtain ⟨d, l, a, extended⟩ := openToken_accumulate_eq b (oneLess s.eng)
  rw [decConsume_of_token offered other]
  refine ⟨rfl, ?_, same.extend b, [], did_nil rfl rfl rfl rfl, fun rest _ => decEvents_token s.lut cur rest other⟩
  rw [extended]
  change _ = 1 + (s.eng.remaining - 1).toNat
  bv_omega

/-- DEC_FLUSH: the event of the last token, no input being left (R157, R158). -/
theorem decodes_decFlush {s : State} {cur : List Byte} (inv : s.Inv) (token : TokenIs cur s.eng)
    (guard : engineGuard .decFlush s = true) : Decodes s cur [] (engineRun .decFlush s) [] := by
  obtain ⟨-, left, opened, empty⟩ := (decFlush_guard_iff s).mp guard
  obtain ⟨o, n, ended⟩ := endToken_eq s
  have did : Did [tokenSym s.lut cur] s (endToken s) := tokenMatch_eq_tokenSym inv token opened ▸ did_endToken empty
  have eng := congrArg State.eng ended
  have lut := congrArg State.lut ended
  change Decodes s cur [] (endToken s) []
  refine ⟨lut, by rw [eng]; simp, tokenIs_nil (by rw [eng]; rfl), _, did, fun rest length => ?_⟩
  rw [eng, noToken_remaining, left] at length
  obtain rfl : rest = [] := List.eq_nil_of_length_eq_zero length
  exact tokenEvents_of_ne_nil s.lut (token.ne_nil opened)

/-- DEC_FINISH: no event, since no token is open and no input left (R159). -/
theorem decodes_decFinish {s : State} {cur : List Byte} (token : TokenIs cur s.eng)
    (guard : engineGuard .decFinish s = true) : Decodes s cur [] (engineRun .decFinish s) [] := by
  obtain ⟨-, left, closed, empty⟩ := (decFinish_guard_iff s).mp guard
  obtain rfl := token.eq_nil closed
  exact ⟨rfl, by rw [left]; rfl, tokenIs_nil rfl, [], did_nil rfl rfl rfl empty.symm, fun _ _ => rfl⟩

/-! ## Steps -/

/-- What a step did to a decode job whose open token is `cur`: the job went on, or finished with no input left, or was
dropped without DONE (R97, R159, R230). -/
inductive DecStep (cur : List Byte) (s t : State) : Prop
  | wentOn (decodes : ∃ cur', Decodes s cur (consumed s t) t cur') (job : t.eng.job = .dec)
  | finished (decodes : Decodes s cur [] t []) (cleared : t.eng = Engine.cleared) (empty : t.outSlot = none)
      (inCount : t.inCount = s.inCount)
  | dropped (idle : t.eng.job = .idle) (undone : t.done = true → s.done = true)

/-- An engine step of a decode job (R155 to R159). -/
theorem decStep_engineRun {e : EngineStep} {s : State} {cur : List Byte} (inv : s.Inv) (token : TokenIs cur s.eng)
    (guard : engineGuard e s = true) (job : s.eng.job = .dec) : DecStep cur s (engineRun e s) := by
  have noEncode : s.eng.job ≠ .enc := by rw [job]; decide
  cases e with
  | decConsume =>
    obtain ⟨b, o, n, offered, next⟩ := decConsume_eq guard
    obtain ⟨i, d, l, a, after⟩ := decAfterByte_eq b s.eng
    have running : (engineRun .decConsume s).eng.job = .dec := by rw [next, after]; exact job
    have counted : consumed s (engineRun .decConsume s) = [b] := consumed_of_counted offered (by rw [next])
    refine .wentOn ?_ running
    rw [counted]
    cases white : isWhitespace b with
    | true => exact ⟨_, decodes_whitespace inv token guard offered white⟩
    | false => exact ⟨_, decodes_token token guard offered white⟩
  | decFlush =>
    obtain ⟨o, n, ended⟩ := endToken_eq s
    have next : engineRun .decFlush s = endToken s := rfl
    have running : (engineRun .decFlush s).eng.job = .dec := by rw [next, ended]; exact job
    have same : consumed s (engineRun .decFlush s) = [] := consumed_of_same (by rw [next, ended])
    exact .wentOn ⟨[], same ▸ decodes_decFlush inv token guard⟩ running
  | decFinish => exact .finished (decodes_decFinish token guard) rfl rfl rfl
  | encConsume => exact absurd ((encConsume_guard_iff s).mp guard).1 noEncode
  | encEmitChar => exact absurd ((encEmitChar_guard_iff s).mp guard).1 noEncode
  | encEmitDelim => exact absurd ((encEmitDelim_guard_iff s).mp guard).1 noEncode
  | encFinish => exact absurd ((encFinish_guard_iff s).mp guard).1 noEncode

/-- No fact about the job reads the moves still to come. -/
theorem decStep_of_setTurns {s t : State} {cur : List Byte} {ts : List Turn} (token : TokenIs cur s.eng)
    (h : DecStep cur (s.setTurns ts) t) : DecStep cur s t := by
  have same : Decodes s cur [] (s.setTurns ts) cur := decodes_of_same token rfl rfl (did_nil rfl rfl rfl rfl)
  cases h with
  | wentOn decodes job =>
    obtain ⟨cur', decodes⟩ := decodes
    exact .wentOn ⟨cur', same.trans decodes⟩ job
  | finished decodes cleared empty inCount => exact .finished (same.trans decodes) cleared empty inCount
  | dropped idle undone => exact .dropped idle undone

/-- Every step taken while a decode job runs is one of these (R93, R103). -/
theorem decStep_of_step {s t : State} {cur : List Byte} (inv : s.Inv) (token : TokenIs cur s.eng)
    (h : step s = .next t) (job : s.eng.job = .dec) : DecStep cur s t := by
  cases jobStep_of_step h (by rw [job]; decide) with
  | moved moved =>
    have same : consumed s t = [] := consumed_of_same moved.inCount
    exact .wentOn ⟨cur, same ▸ decodes_of_same token moved.eng moved.lut moved.did⟩ (by rw [moved.eng, job])
  | engine e ts guard next =>
    subst next
    exact decStep_of_setTurns token (decStep_engineRun ((inv_setTurns s ts).mpr inv) token guard job)
  | aborted idle done => exact .dropped idle fun h => done ▸ h
  | reset idle done => exact .dropped idle fun h => by rw [done] at h; cases h

/-! ## Whole jobs -/

/-- All along a decode job the events of the bytes consumed have happened, but for those that wait on the open token. -/
theorem decodes_of_jobRun {s t : State} {cur bs : List Byte} (inv : s.Inv) (token : TokenIs cur s.eng)
    (run : JobRun .dec s bs t) : ∃ cur', Decodes s cur bs t cur' := by
  induction run with
  | start => exact ⟨cur, decodes_of_same token rfl rfl (did_nil rfl rfl rfl rfl)⟩
  | more bs t u run ht hu ih =>
    obtain ⟨cur', decodes⟩ := ih
    have running (idle : u.eng.job = .idle) : False := by rw [hu] at idle; cases idle
    cases decStep_of_step (jobRun_inv inv run) decodes.token ht (jobRun_job run) with
    | wentOn next =>
      obtain ⟨cur'', next⟩ := next
      exact ⟨cur'', decodes.trans next⟩
    | finished _ cleared => exact (running (by rw [cleared]; rfl)).elim
    | dropped idle => exact (running idle).elim

/-- Settles O48: a job that ends with DONE ends by DEC_FINISH, after which nothing is left to happen. -/
theorem decodeJobDeliversTheMatchedSymbols : Obligations.DecodeJobDeliversTheMatchedSymbols := by
  unfold Obligations.DecodeJobDeliversTheMatchedSymbols
  rintro s u _ inv started ⟨bs, t, run, ht, idle, -, rfl⟩ done
  have job := jobRun_job run
  have undone := ((jobRun_inv inv run).runningUnflagged (by rw [job]; decide)).1
  obtain ⟨cur, decodes⟩ := decodes_of_jobRun inv (tokenIs_nil started.noTokenOpen) run
  cases decStep_of_step (jobRun_inv inv run) decodes.token ht job with
  | wentOn _ job => rw [job] at idle; cases idle
  | dropped _ kept => rw [kept done] at undone; cases undone
  | finished last cleared empty same =>
    have whole := decodes.trans last
    have left : t.eng.remaining.toNat = 0 := by simpa [cleared] using last.left
    obtain ⟨count, sum⟩ := inCountAndRemainingMakeTheJobLength .dec s t bs inv (by decide) started run
    obtain ⟨ev, did, stream⟩ := whole.events
    obtain ⟨out, delivers, slot⟩ := did.out
    have events : decEvents s.lut [] bs = ev := by
      simpa [decEvents] using stream [] (by rw [cleared]; rfl)
    have out_eq : out = decStream s.lut bs := by
      rw [decStream_eq_delivered, events]
      simpa [empty, started.nothingHeld] using slot
    rw [consumed_of_same same, List.append_nil]
    refine ⟨out_eq ▸ delivers.taken, by omega, ?_, ?_, ?_⟩
    · rw [same]
      exact BitVec.eq_of_toNat_eq (by omega)
    · rw [← out_eq]
      exact delivers.outCount_toNat started.nothingTaken
    · rw [decSkips_eq_skipped, events, did.skips, started.nothingSkipped]
      simp

end Sys2Proof.Proofs
end

section
/-! The family of the decoder (spec/43_decoder.md), fifth part: a decode job can end itself with DONE on any input.
Whatever state the job is in, some move is enabled that brings its end nearer. -/

namespace Sys2Proof.Proofs

open Sys2Proof.Machine Sys2Proof.Laws

/-! ## No decode step reads the moves still to come -/

theorem endToken_setTurns (s : State) (ts : List Turn) : endToken (s.setTurns ts) = (endToken s).setTurns ts := by
  have same : tokenMatch (s.setTurns ts) = tokenMatch s := rfl
  cases found : tokenMatch s with
  | none =>
    rw [endToken_of_no_match found, endToken_of_no_match (same.trans found)]
    rfl
  | some k =>
    rw [endToken_of_match found, endToken_of_match (same.trans found)]
    rfl

theorem endOpenToken_setTurns (s : State) (ts : List Turn) :
    endOpenToken (s.setTurns ts) = (endOpenToken s).setTurns ts := by
  cases opened : s.eng.decIntok with
  | true => rw [endOpenToken_of_open opened, endOpenToken_of_open (s := s.setTurns ts) opened, endToken_setTurns]
  | false => rw [endOpenToken_of_closed opened, endOpenToken_of_closed (s := s.setTurns ts) opened]

theorem emitDegenerate_setTurns (b : Byte) (s : State) (ts : List Turn) :
    emitDegenerate b (s.setTurns ts) = (emitDegenerate b s).setTurns ts := by
  cases degen : s.eng.degen with
  | true =>
    rw [emitDegenerate_of_degen b degen, emitDegenerate_of_degen (s := s.setTurns ts) b degen]
    rfl
  | false => rw [emitDegenerate_of_not_degen b degen, emitDegenerate_of_not_degen (s := s.setTurns ts) b degen]

theorem decConsume_setTurns {s : State} {b : Byte} (offered : s.inSlot = some b) (ts : List Turn) :
    engineRun .decConsume (s.setTurns ts) = (engineRun .decConsume s).setTurns ts := by
  have offered' : (s.setTurns ts).inSlot = some b := offered
  cases white : isWhitespace b with
  | true =>
    have count : (s.setTurns ts).countByte = s.countByte.setTurns ts := rfl
    rw [decConsume_of_whitespace offered white, decConsume_of_whitespace offered' white, count, endOpenToken_setTurns,
      emitDegenerate_setTurns]
  | false =>
    rw [decConsume_of_token offered white, decConsume_of_token offered' white]
    rfl

/-! ## What a decode job has left to do -/

/-- A decode job runs that has these bytes left to consume, the first of which may be offered already. -/
structure DecLeft (bs : List Byte) (s : State) : Prop where
  seen : s.resetSeen = true
  inv : s.Inv
  job : s.eng.job = .dec
  left : bs.length = s.eng.remaining.toNat
  offered : s.inSlot = none ∨ bs = [] ∨ s.inSlot = bs.head?

/-- A bound on the moves left: each byte to go in is offered and consumed, each token ended, each byte out taken. -/
def decWork (bs : List Byte) (s : State) : Nat :=
  5 * bs.length + 2 * s.eng.decIntok.toNat + s.outSlot.toList.length + s.inSlot.isNone.toNat

/-- An enabled move leads to a state with less to do, in which the job has the rest of its bytes left. -/
def DecProgress (bs : List Byte) (s : State) : Prop :=
  ∃ m t bs', MovesTo m s t ∧ bs = consumed s t ++ bs' ∧ DecLeft bs' t ∧ decWork bs' t < decWork bs s

/-- At most one byte waits in OUT.slot. -/
theorem slot_length_le (slot : Option Byte) : slot.toList.length ≤ 1 := by
  cases slot <;> simp

section
variable {bs : List Byte} {s : State} (h : DecLeft bs s)
include h

/-- A move that consumes nothing, after which there is less to do. -/
theorem DecLeft.progress {m : Turn} {t : State} (move : MovesTo m s t) (seen : t.resetSeen = s.resetSeen)
    (job : t.eng.job = s.eng.job) (left : t.eng.remaining = s.eng.remaining) (inCount : t.inCount = s.inCount)
    (offered : t.inSlot = s.inSlot ∨ t.inSlot = bs.head?) (less : decWork bs t < decWork bs s) : DecProgress bs s := by
  have offered : t.inSlot = none ∨ bs = [] ∨ t.inSlot = bs.head? := by
    rcases offered with same | first
    · rw [same]; exact h.offered
    · exact .inr (.inr first)
  refine ⟨m, t, bs, move, by rw [consumed_of_same inCount, List.nil_append], ?_, less⟩
  exact ⟨seen.trans h.seen, move.inv h.seen h.inv, job.trans h.job, left ▸ h.left, offered⟩

/-- A byte in OUT.slot can be taken (R95). -/
theorem DecLeft.take {c : Byte} (held : s.outSlot = some c) : DecProgress bs s := by
  have move : MovesTo .take s (byteTaken c s) := {
    guard := by simp [turnGuard, held]
    next := fun ts => congrArg _ (hostTake_of_held (s := s.setTurns ts) held) }
  refine h.progress move rfl rfl rfl rfl (.inl rfl) ?_
  simp [decWork, byteTaken, held]

/-- With no input left an open token can be flushed (R158). -/
theorem DecLeft.flush (guard : engineGuard .decFlush s = true) : DecProgress bs s := by
  obtain ⟨-, -, opened, empty⟩ := (decFlush_guard_iff s).mp guard
  have move : MovesTo .engine s (endToken s) := movesTo_engine guard (endToken_setTurns s)
  obtain ⟨o, n, ended⟩ := endToken_eq s
  rw [ended] at move
  refine h.progress move rfl rfl rfl rfl (.inl rfl) ?_
  have := slot_length_le o
  simp only [decWork, opened, empty, noToken_decIntok, Bool.toNat_true, Bool.toNat_false, Option.toList_none,
    List.length_nil]
  omega

end

/-- With IN.slot empty the next byte of the input can be offered (R94). -/
theorem DecLeft.offer {b : Byte} {bs : List Byte} {s : State} (h : DecLeft (b :: bs) s) (empty : s.inSlot = none) :
    DecProgress (b :: bs) s := by
  have move : MovesTo (.offer b) s (hostOffer b s) := ⟨by simp [turnGuard, empty], fun _ => rfl⟩
  refine h.progress move rfl rfl rfl rfl (.inr rfl) ?_
  simp [decWork, empty]

/-- With OUT.slot empty the next byte of the input, once offered, can be consumed (R155). -/
theorem DecLeft.consume {b : Byte} {bs : List Byte} {s : State} (h : DecLeft (b :: bs) s) (empty : s.outSlot = none)
    (offered : s.inSlot = some b) : DecProgress (b :: bs) s := by
  have length : bs.length + 1 = s.eng.remaining.toNat := h.left
  have guard := (decConsume_guard_iff s).mpr ⟨h.job, by omega, ⟨b, offered⟩, empty⟩
  have move := movesTo_engine guard (decConsume_setTurns offered)
  obtain ⟨b', o, n, offered', next⟩ := decConsume_eq guard
  obtain rfl : b = b' := Option.some.inj (offered.symm.trans offered')
  obtain ⟨i, d, l, a, after⟩ := decAfterByte_eq b s.eng
  rw [next, after] at move
  have left : bs.length = (s.eng.remaining - 1).toNat := by bv_omega
  refine ⟨.engine, _, bs, move, by rw [consumed_of_counted offered rfl]; rfl,
    ⟨h.seen, move.inv h.seen h.inv, h.job, left, .inl rfl⟩, ?_⟩
  have := slot_length_le o
  cases i <;> simp [decWork, empty, offered] <;> omega

/-- While input or an open token is left or a byte is held, some move brings the end nearer. -/
theorem decProgress_or_done {bs : List Byte} {s : State} (h : DecLeft bs s) :
    DecProgress bs s ∨ (bs = [] ∧ engineGuard .decFinish s = true) := by
  cases held : s.outSlot with
  | some c => exact .inl (h.take held)
  | none =>
    cases bs with
    | nil =>
      have left : s.eng.remaining = 0 := BitVec.eq_of_toNat_eq h.left.symm
      cases opened : s.eng.decIntok with
      | true => exact .inl (h.flush ((decFlush_guard_iff s).mpr ⟨h.job, left, opened, held⟩))
      | false => exact .inr ⟨rfl, (decFinish_guard_iff s).mpr ⟨h.job, left, opened, held⟩⟩
    | cons b bs =>
      rcases h.offered with empty | nil | first
      · exact .inl (h.offer empty)
      · cases nil
      · exact .inl (h.consume held first)

/-- DEC_FINISH ends the job with DONE (R159). -/
theorem canEnd_of_decFinish {s : State} (seen : s.resetSeen = true) (guard : engineGuard .decFinish s = true) :
    CanEnd .dec [] s := by
  obtain ⟨job, -⟩ := (decFinish_guard_iff s).mp guard
  exact ⟨[.engine], _, ⟨[], _, .start job, step_setTurns_engine [] seen guard, rfl, .inl rfl,
    (consumed_of_same rfl).symm⟩, rfl⟩

/-- A decode job can end with DONE, by induction on what is left to do. -/
theorem DecLeft.canEnd {bs : List Byte} {s : State} (h : DecLeft bs s) : CanEnd .dec bs s := by
  induction hn : decWork bs s using Nat.strong_induction_on generalizing bs s with
  | _ n ih =>
    rcases decProgress_or_done h with ⟨m, t, bs', move, rfl, left, less⟩ | ⟨rfl, guard⟩
    · exact move.canEnd h.seen h.job (ih _ (hn ▸ less) left rfl)
    · exact canEnd_of_decFinish h.seen guard

/-- Settles O49: the job can end with DONE, and then its output is what every job that so ends delivers. -/
theorem decodeJobCanFinish : Obligations.DecodeJobCanFinish := by
  unfold Obligations.DecodeJobCanFinish
  intro s bs inv seen started offered left
  obtain ⟨ts, u, ends, done⟩ := DecLeft.canEnd ⟨seen, inv, started.jobRuns, left, offered⟩
  obtain ⟨taken, -⟩ := decodeJobDeliversTheMatchedSymbols (s.setTurns ts) u bs ((inv_setTurns s ts).mpr inv)
    (justStarted_setTurns started ts) ends done
  exact ⟨ts, u, ends, done, taken⟩

end Sys2Proof.Proofs
end

section
/-! The family of the decoder (spec/43_decoder.md), sixth part: decoding undoes encoding (R166). -/

namespace Sys2Proof.Proofs

open Sys2Proof.Machine Sys2Proof.Laws

/-- No character of a code string is whitespace (R13, R151). -/
theorem isWhitespace_of_isBit {b : Byte} (h : IsBit b) : isWhitespace b = false := by
  rcases h with rfl | rfl <;> rfl

/-- Token bytes join the token that is open (R153). -/
theorem decEvents_tokenBytes (lut : Lut) {tok : List Byte} (h : ∀ b ∈ tok, isWhitespace b = false)
    (cur u : List Byte) : decEvents lut cur (tok ++ u) = decEvents lut (cur ++ tok) u := by
  induction tok generalizing cur with
  | nil => rw [List.nil_append, List.append_nil]
  | cons b tok ih =>
    obtain ⟨first, rest⟩ := List.forall_mem_cons.mp h
    rw [List.cons_append, decEvents_token lut cur _ first, ih rest, List.append_assoc, List.singleton_append]

/-- R166's premise: every valid row has a character, or the LUT is degenerate. -/
def CodesSpeak (lut : Lut) : Prop :=
  (∀ k, (lutAt lut k).valid = true → 1 ≤ (lutAt lut k).len.toNat) ∨ ∃ k, lut.DegenerateAt k

/-- The code string of a row and the space after it are the one event of its symbol (R75, R152, R163). -/
theorem tokenEvents_chars {lut : Lut} (injective : lut.Injective) (rows : ∀ k, RowOk (lutAt lut k))
    (speak : CodesSpeak lut) {k : Sym} (valid : (lutAt lut k).valid = true) :
    tokenEvents lut (lutAt lut k).chars ++ spaceEvents lut space = [some k] := by
  rcases speak with long | ⟨j, degenerate⟩
  · have nonempty : (lutAt lut k).chars ≠ [] := by
      rw [← List.length_pos_iff, chars_length]
      exact long k valid
    have plain : degenerateOf lut = none := by
      refine Option.eq_none_iff_forall_ne_some.mpr fun j h => ?_
      obtain ⟨sole, len⟩ := (degenerateOf_eq_some_iff lut j).mp h
      have := long j ((mem_validSyms lut j).mp (by simp [sole]))
      simp [len] at this
    rw [tokenEvents_of_ne_nil lut nonempty, (tokenSym_eq_some_iff injective rows _ k).mpr ⟨valid, rfl⟩,
      spaceEvents_of_not_degenerate plain, List.append_nil]
  · obtain rfl : k = j := eq_of_degenerateAt degenerate valid
    have empty : (lutAt lut k).chars = [] := List.eq_nil_of_length_eq_zero (by simp [degenerate.2])
    rw [empty, spaceEvents_of_degenerate ((degenerateOf_eq_some_iff lut k).mpr degenerate)]
    rfl

/-- The events of an encoded text are its symbols (R163, R166). -/
theorem decEvents_encStream {lut : Lut} (injective : lut.Injective) (rows : ∀ k, RowOk (lutAt lut k))
    (speak : CodesSpeak lut) {text : List Byte} (codes : ∀ b ∈ text, encodable lut b = true) :
    decEvents lut [] (encStream lut text) = text.map fun b => some (b.setWidth 7) := by
  induction text with
  | nil => rfl
  | cons b text ih =>
    obtain ⟨first, rest⟩ := List.forall_mem_cons.mp codes
    obtain ⟨-, valid⟩ := (encodable_iff lut b).mp first
    have noWhite : ∀ c ∈ (lutAt lut (b.setWidth 7)).chars, isWhitespace c = false := fun c hc =>
      isWhitespace_of_isBit (isBit_of_mem_chars hc)
    have white : isWhitespace space = true := rfl
    have stream : encStream lut (b :: text) =
        (lutAt lut (b.setWidth 7)).chars ++ space :: encStream lut text := by
      rw [encStream, List.flatMap_cons, encToken, List.append_assoc]
      rfl
    rw [stream, decEvents_tokenBytes lut noWhite, List.nil_append, decEvents_whitespace lut _ _ white,
      tokenEvents_chars injective rows speak valid, ih rest]
    rfl

/-- A byte that can be encoded is its symbol, widened again (R132). -/
theorem setWidth_of_encodable {lut : Lut} {b : Byte} (h : encodable lut b = true) : (b.setWidth 7).setWidth 8 = b := by
  obtain ⟨range, -⟩ := (encodable_iff lut b).mp h
  apply BitVec.eq_of_toNat_eq
  simp
  omega

/-- Decoding an encoded text gives it back and skips nothing (R166). -/
theorem decStream_encStream {lut : Lut} (injective : lut.Injective) (rows : ∀ k, RowOk (lutAt lut k))
    (speak : CodesSpeak lut) {text : List Byte} (codes : ∀ b ∈ text, encodable lut b = true) :
    decStream lut (encStream lut text) = text ∧ decSkips lut (encStream lut text) = 0 := by
  rw [decStream_eq_delivered, decSkips_eq_skipped, decEvents_encStream injective rows speak codes]
  constructor
  · rw [delivered, List.reduceOption, List.filterMap_map, List.map_filterMap]
    calc text.filterMap _ = text.filterMap some := List.filterMap_congr fun b hb => by
          simpa using setWidth_of_encodable (codes b hb)
      _ = text := List.filterMap_some
  · exact List.count_eq_zero.mpr (by simp)

/-- Settles O50: the encode job delivers the text's token stream, of which the decode job's LUT, the same and injective, makes
the text again. -/
theorem encodeThenDecodeRoundTrips : Obligations.EncodeThenDecodeRoundTrips := by
  unfold Obligations.EncodeThenDecodeRoundTrips
  intro s1 u1 s2 u2 plain coded inv1 started1 ends1 done1 inv2 started2 ends2 done2 lut taken speak
  obtain ⟨encoded, codes, -⟩ := encodeJobDeliversItsTokenStream s1 u1 plain inv1 started1 ends1 done1
  obtain ⟨decoded, -, -, -, skips⟩ := decodeJobDeliversTheMatchedSymbols s2 u2 coded inv2 started2 ends2 done2
  obtain rfl : coded = encStream s1.lut plain := List.append_cancel_left (taken.symm.trans encoded)
  have injective : s1.lut.Injective := lut ▸ inv2.decInjective started2.jobRuns
  obtain ⟨text, noSkip⟩ := decStream_encStream injective ((inv_iff s1).mp inv1).1.rows speak codes
  rw [lut] at decoded skips
  exact ⟨by rw [decoded, text], BitVec.eq_of_toNat_eq (by rw [skips, noSkip]; rfl)⟩

end Sys2Proof.Proofs
end

section
/-! The family of the host reference procedure (spec/45_host_reference.md), first part: what the code assigner makes of
a tree, and what every tree the builder can give has of its leaves (R184, R187, R188, R193). -/

namespace Sys2Proof.Proofs

open Sys2Proof.Machine Sys2Proof.Laws Sys2Proof.Reference

/-! ## Codes -/

/-- Every code of a subtree goes on from the code of its root (R187). -/
theorem prefix_of_mem_codes {t : Tree} {c : List Bool} {p : Sym × List Bool} (h : p ∈ codes t c) : c <+: p.2 := by
  induction t generalizing c with
  | leaf s w =>
    obtain rfl : p = (s, c) := by simpa [codes] using h
    exact List.prefix_rfl
  | node w l r ihl ihr =>
    rcases List.mem_append.mp h with left | right
    · exact (List.prefix_append c [false]).trans (ihl left)
    · exact (List.prefix_append c [true]).trans (ihr right)

/-- The keys of the table do not depend on the code of the root (R187). -/
theorem codes_keys (t : Tree) (c : List Bool) : (codes t c).map Prod.fst = (codes t []).map Prod.fst := by
  induction t generalizing c with
  | leaf s w => rfl
  | node w l r ihl ihr => simp only [codes, List.map_append, ihl, ihr]

theorem codes_length (t : Tree) (c : List Bool) : (codes t c).length = (codes t []).length := by
  simpa using congrArg List.length (codes_keys t c)

/-- A table has the entries of both subtrees (R187). -/
theorem codes_node_length (w : Nat) (l r : Tree) :
    (codes (.node w l r) []).length = (codes l []).length + (codes r []).length := by
  rw [codes, List.length_append, codes_length l, codes_length r]

/-- Every tree has a leaf (R184). -/
theorem codes_length_pos (t : Tree) : 0 < (codes t []).length := by
  induction t with
  | leaf s w => exact Nat.one_pos
  | node w l r ihl _ =>
    rw [codes_node_length]
    omega

/-- No leaf is deeper than the number of the other leaves (R184). -/
theorem code_length_lt {t : Tree} {c : List Bool} {p : Sym × List Bool} (h : p ∈ codes t c) :
    p.2.length < c.length + (codes t []).length := by
  induction t generalizing c with
  | leaf s w =>
    obtain rfl : p = (s, c) := by simpa [codes] using h
    exact Nat.lt_succ_self _
  | node w l r ihl ihr =>
    have hl := codes_length_pos l
    have hr := codes_length_pos r
    rw [codes_node_length]
    rcases List.mem_append.mp h with left | right
    · have := ihl left
      rw [List.length_append, List.length_singleton] at this
      omega
    · have := ihr right
      rw [List.length_append, List.length_singleton] at this
      omega

/-- Codes of leaves below different children of a node part at that node (R187). -/
theorem not_prefix_of_siblings {c x y : List Bool} {b : Bool} (hx : c ++ [b] <+: x) (hy : c ++ [!b] <+: y) :
    ¬ x <+: y := by
  intro h
  have := List.prefix_of_prefix_length_le (hx.trans h) hy (by simp)
  simp at this

/-- No code begins with another (R193 (2)). -/
theorem codes_prefix_free {t : Tree} {c : List Bool} {p q : Sym × List Bool} (hp : p ∈ codes t c) (hq : q ∈ codes t c)
    (h : p.2 <+: q.2) : p = q := by
  induction t generalizing c with
  | leaf s w =>
    obtain rfl : p = (s, c) := by simpa [codes] using hp
    obtain rfl : q = (s, c) := by simpa [codes] using hq
    rfl
  | node w l r ihl ihr =>
    rcases List.mem_append.mp hp with pl | pr <;> rcases List.mem_append.mp hq with ql | qr
    · exact ihl pl ql
    · exact absurd h (not_prefix_of_siblings (prefix_of_mem_codes pl) (prefix_of_mem_codes qr))
    · exact absurd h (not_prefix_of_siblings (prefix_of_mem_codes pr) (prefix_of_mem_codes ql))
    · exact ihr pr qr

/-! ## Leaves -/

/-- The symbols with non-zero frequency, in ascending order (R185). -/
def usedSyms (f : Freq) : List Sym :=
  allSyms.filter fun k => 0 < f[k.toNat]'k.isLt

@[simp] theorem mem_usedSyms (f : Freq) (k : Sym) : k ∈ usedSyms f ↔ 0 < f[k.toNat]'k.isLt := by
  simp [usedSyms]

theorem usedSyms_nodup (f : Freq) : (usedSyms f).Nodup :=
  allSyms_nodup.filter _

theorem usedSyms_length_le (f : Freq) : (usedSyms f).length ≤ 128 := by
  have := List.length_filter_le (fun k : Sym => decide (0 < f[k.toNat]'k.isLt)) allSyms
  rwa [allSyms_length] at this

/-- The leaf trees are those of the symbols used (R185). -/
theorem leaves_eq (f : Freq) : leaves f = (usedSyms f).map fun k => .leaf k (f[k.toNat]'k.isLt) := by
  rw [leaves, usedSyms, ← List.filterMap_eq_map, List.filterMap_filter]
  simp

/-- A FrequencyTable, entry by entry (R180). -/
theorem freq_toList (f : Freq) : f.toList = allSyms.map fun k => f[k.toNat]'k.isLt := by
  apply List.ext_getElem
  · simp
  · intro i hi hi'
    have : i < 128 := by simpa using hi
    simp [allSyms, Nat.mod_eq_of_lt this]

/-- The leaves weigh together what the counts sum to (R193 (3)). -/
theorem leaves_weight_sum (f : Freq) : ((leaves f).map Tree.weight).sum = f.toList.sum := by
  have split (l : List Sym) : ((l.filter fun k => 0 < f[k.toNat]'k.isLt).map fun k => f[k.toNat]'k.isLt).sum =
      (l.map fun k => f[k.toNat]'k.isLt).sum := by
    induction l with
    | nil => rfl
    | cons k l ih =>
      rw [List.filter_cons]
      split
      · simp only [List.map_cons, List.sum_cons, ih]
      · rename_i zero
        have : f[k.toNat]'k.isLt = 0 := by simpa using zero
        rw [List.map_cons, List.sum_cons, ih, this, Nat.zero_add]
  rw [leaves_eq, freq_toList, List.map_map]
  exact split allSyms

/-! ## What the merges keep -/

/-- What a merge adds up is, at the root, the sum over the trees the builder began with (R185). -/
theorem builds_sum {M : Type} [AddCommMonoid M] {measure : Tree → M}
    (add : ∀ t1 t2, measure (merge t1 t2) = measure t1 + measure t2) {q : List Tree} {t : Tree} (h : Builds q t) :
    measure t = (q.map measure).sum := by
  induction h with
  | done t => simp
  | mergeLeft q rest t1 t2 r hq _ _ _ ih => simp [ih, add, (hq.map measure).sum_eq, add_assoc]
  | mergeRight q rest t1 t2 r hq _ _ _ ih => simp [ih, add, (hq.map measure).sum_eq, add_assoc, add_left_comm]

/-- What a merge keeps of its two trees, the root has of the trees the builder began with (R185). -/
theorem builds_forall {P : Tree → Prop} (keep : ∀ t1 t2, P t1 → P t2 → P (merge t1 t2)) {q : List Tree} {t : Tree}
    (h : Builds q t) (all : ∀ t ∈ q, P t) : P t := by
  induction h with
  | done t => exact all t (List.mem_singleton_self t)
  | mergeLeft q rest t1 t2 r hq _ _ _ ih =>
    simp only [hq.mem_iff, List.forall_mem_cons] at all
    exact ih (List.forall_mem_cons.mpr ⟨keep _ _ all.1 all.2.1, all.2.2⟩)
  | mergeRight q rest t1 t2 r hq _ _ _ ih =>
    simp only [hq.mem_iff, List.forall_mem_cons] at all
    exact ih (List.forall_mem_cons.mpr ⟨keep _ _ all.2.1 all.1, all.2.2⟩)

/-- A built tree conserves weights (R184, R193 (3)). -/
theorem builds_conserves {f : Freq} {t : Tree} (h : Builds (leaves f) t) : t.Conserves := by
  refine builds_forall (fun _ _ h1 h2 => ⟨rfl, h1, h2⟩) h fun t ht => ?_
  rw [leaves_eq] at ht
  obtain ⟨k, -, rfl⟩ := List.mem_map.mp ht
  trivial

/-- The root of a built tree weighs what the counts sum to (R193 (3)). -/
theorem builds_weight {f : Freq} {t : Tree} (h : Builds (leaves f) t) : t.weight = f.toList.sum := by
  rw [← leaves_weight_sum]
  exact builds_sum (fun _ _ => rfl) h

/-- The table's keys are the symbols used (R187). -/
theorem builds_keys {f : Freq} {t : Tree} (h : Builds (leaves f) t) :
    ((codes t []).map Prod.fst).Perm (usedSyms f) := by
  have add (t1 t2 : Tree) : (((codes (merge t1 t2) []).map Prod.fst : List Sym) : Multiset Sym) =
      ((codes t1 []).map Prod.fst : List Sym) + ((codes t2 []).map Prod.fst : List Sym) := by
    rw [merge, codes, List.map_append, codes_keys t1, codes_keys t2, Multiset.coe_add]
  have sum := builds_sum (measure := fun t => (((codes t []).map Prod.fst : List Sym) : Multiset Sym)) add h
  rw [leaves_eq, List.map_map] at sum
  have single (l : List Sym) : (l.map fun k => ({k} : Multiset Sym)).sum = l := by
    simpa using Multiset.sum_map_singleton (l : Multiset Sym)
  exact Multiset.coe_eq_coe.mp (sum.trans (single (usedSyms f)))

/-- A built table names no symbol twice (R187). -/
theorem builds_keys_nodup {f : Freq} {t : Tree} (h : Builds (leaves f) t) : ((codes t []).map Prod.fst).Nodup :=
  (builds_keys h).nodup_iff.mpr (usedSyms_nodup f)

/-- A symbol is a key of a built table exactly if its frequency is not zero (R187). -/
theorem mem_builds_keys {f : Freq} {t : Tree} (h : Builds (leaves f) t) (k : Sym) :
    k ∈ (codes t []).map Prod.fst ↔ 0 < f[k.toNat]'k.isLt := by
  rw [(builds_keys h).mem_iff, mem_usedSyms]

/-- A code of a built table fits LEN: there are at most 128 keys (R188). -/
theorem builds_code_length {f : Freq} {t : Tree} (h : Builds (leaves f) t) {p : Sym × List Bool} (hp : p ∈ codes t []) :
    p.2.length ≤ 127 := by
  have depth := code_length_lt hp
  have keys := (builds_keys h).length_eq
  have few := usedSyms_length_le f
  rw [List.length_map] at keys
  rw [List.length_nil] at depth
  omega

/-- Settles O56: weights and keys add up in a merge, and the codes are the paths to the leaves. -/
theorem everyBuiltTableIsPrefixFree : Obligations.EveryBuiltTableIsPrefixFree := by
  unfold Obligations.EveryBuiltTableIsPrefixFree
  intro f t h
  refine ⟨builds_conserves h, builds_weight h, fun k => ?_, builds_keys_nodup h, fun p hp => builds_code_length h hp,
    fun p hp q hq => codes_prefix_free hp hq⟩
  rw [← mem_builds_keys h]
  simp

end Sys2Proof.Proofs
end

section
/-! The family of the host reference procedure (spec/45_host_reference.md), second part: the frequency counter (R180),
by the last character of the text. -/

namespace Sys2Proof.Proofs

open Sys2Proof.Machine Sys2Proof.Laws Sys2Proof.Reference

/-! ## One character more -/

theorem countText_append (width : Option Nat) (text text' : List Nat) (f : Freq) :
    countText width (text ++ text') f = (countText width text f).bind (countText width text') := by
  induction text generalizing f with
  | nil => rfl
  | cons ch text ih =>
    simp only [List.cons_append, countText]
    cases countChar width f ch with
    | ok f' => exact ih f'
    | error e => rfl

/-- The table of a text and one character more (R180). -/
theorem frequencies_concat (width : Option Nat) (text : List Nat) (ch : Nat) :
    frequencies width (text ++ [ch]) = (frequencies width text).bind fun f => countChar width f ch := by
  have one (f : Freq) : countText width [ch] f = countChar width f ch := by
    simp only [countText]
    cases countChar width f ch <;> rfl
  rw [frequencies, countText_append, frequencies, funext one]

/-- A text whose last character is counted is one whose other characters were (R180). -/
theorem frequencies_concat_ok {width : Option Nat} {text : List Nat} {ch : Nat} {f' : Freq}
    (h : frequencies width (text ++ [ch]) = .ok f') : ∃ (f : Freq) (hch : ch < 128), frequencies width text = .ok f ∧
      f' = f.set ch (countIn width (f[ch] + 1)) := by
  rw [frequencies_concat] at h
  cases hf : frequencies width text with
  | error e =>
    rw [hf] at h
    cases h
  | ok f =>
    have h : countChar width f ch = .ok f' := by rwa [hf] at h
    unfold countChar at h
    split at h
    · rename_i hch
      exact ⟨f, hch, rfl, (Except.ok.inj h).symm⟩
    · cases h

/-- An entry after one character more (R180). -/
theorem freq_set_getElem (f : Freq) {ch : Nat} (hch : ch < 128) (n : Nat) (k : Sym) :
    (f.set ch n)[k.toNat]'k.isLt = if ch = k.toNat then n else f[k.toNat]'k.isLt :=
  Vector.getElem_set hch k.isLt

/-! ## When the counter fails -/

theorem frequencies_of_in_range (width : Option Nat) {text : List Nat} (h : ∀ c ∈ text, c < 128) :
    ∃ f, frequencies width text = .ok f := by
  induction text using List.reverseRecOn with
  | nil => exact ⟨_, rfl⟩
  | append_singleton text ch ih =>
    simp only [List.forall_mem_append, List.forall_mem_singleton] at h
    obtain ⟨f, hf⟩ := ih h.1
    rw [frequencies_concat, hf]
    exact ⟨_, dif_pos h.2⟩

/-- A character above 127 is an InputRangeError (R180). -/
theorem frequencies_of_out_of_range (width : Option Nat) {text : List Nat} (h : ∃ c ∈ text, 128 ≤ c) :
    frequencies width text = .error .inputRange := by
  induction text using List.reverseRecOn with
  | nil => simp at h
  | append_singleton text ch ih =>
    rw [frequencies_concat]
    by_cases before : ∃ c ∈ text, 128 ≤ c
    · rw [ih before]
      rfl
    · have last : 128 ≤ ch := by
        obtain ⟨c, hc, out⟩ := h
        rcases List.mem_append.mp hc with mem | mem
        · exact absurd ⟨c, mem, out⟩ before
        · rwa [← List.mem_singleton.mp mem]
      obtain ⟨f, hf⟩ := frequencies_of_in_range width (text := text) (by simpa using before)
      rw [hf]
      exact dif_neg (Nat.not_lt.mpr last)

/-- A text that is counted is of symbols (R180). -/
theorem lt_of_frequencies_ok {width : Option Nat} {text : List Nat} {f : Freq} (h : frequencies width text = .ok f) :
    ∀ c ∈ text, c < 128 := by
  by_contra out
  rw [frequencies_of_out_of_range width (by simpa using out)] at h
  cases h

/-! ## What an entry holds -/

/-- An entry stays within the width (R180, log 10). -/
theorem countIn_lt (w n : Nat) : countIn (some w) n < 2 ^ w := by
  rw [countIn]
  split
  · assumption
  · exact Nat.mod_lt _ (Nat.two_pow_pos w)

theorem frequencies_lt {w : Nat} {text : List Nat} {f : Freq} (h : frequencies (some w) text = .ok f) (k : Sym) :
    f[k.toNat]'k.isLt < 2 ^ w := by
  induction text using List.reverseRecOn generalizing f with
  | nil =>
    obtain rfl : Vector.replicate 128 0 = f := Except.ok.inj h
    simp
  | append_singleton text ch ih =>
    obtain ⟨f', hch, hf', rfl⟩ := frequencies_concat_ok h
    rw [freq_set_getElem]
    split
    · exact countIn_lt w _
    · exact ih hf'

/-- Only a character of the text is counted, whatever the width (R180). -/
theorem mem_of_frequencies_pos {width : Option Nat} {text : List Nat} {f : Freq} (h : frequencies width text = .ok f)
    {k : Sym} (pos : 0 < f[k.toNat]'k.isLt) : k.toNat ∈ text := by
  induction text using List.reverseRecOn generalizing f with
  | nil =>
    obtain rfl : Vector.replicate 128 0 = f := Except.ok.inj h
    simp at pos
  | append_singleton text ch ih =>
    obtain ⟨f', hch, hf', rfl⟩ := frequencies_concat_ok h
    rw [freq_set_getElem] at pos
    rw [List.mem_append]
    split at pos
    · rename_i last
      exact .inr (List.mem_singleton.mpr last.symm)
    · exact .inl (ih hf' pos)

/-- A count that fits is held as it is (R180). -/
theorem countIn_of_fits {width : Option Nat} {n : Nat} (h : ∀ w, width = some w → n < 2 ^ w) : countIn width n = n := by
  cases width with
  | none => rfl
  | some w => exact if_pos (h w rfl)

/-- Where the width holds every count, each entry is the count (R180). -/
theorem frequencies_eq_count {width : Option Nat} {text : List Nat} {f : Freq} (h : frequencies width text = .ok f)
    (fit : CountsFit width text) (k : Sym) : f[k.toNat]'k.isLt = text.count k.toNat := by
  induction text using List.reverseRecOn generalizing f with
  | nil =>
    obtain rfl : Vector.replicate 128 0 = f := Except.ok.inj h
    simp
  | append_singleton text ch ih =>
    obtain ⟨f', hch, hf', rfl⟩ := frequencies_concat_ok h
    have before : f'[k.toNat]'k.isLt = text.count k.toNat := ih hf' fun w hw c =>
      (List.Sublist.count_le c (List.sublist_append_left text [ch])).trans_lt (fit w hw c)
    rw [freq_set_getElem, List.count_append]
    split
    · rename_i last
      subst last
      have held : countIn width (text.count k.toNat + 1) = text.count k.toNat + 1 :=
        countIn_of_fits fun w hw => by simpa using fit w hw k.toNat
      rw [before, held, List.count_singleton_self]
    · rename_i other
      rw [before, List.count_singleton, if_neg (by simpa using other), Nat.add_zero]

/-- The symbols as numbers (R8). -/
theorem allSyms_map_toNat : allSyms.map BitVec.toNat = List.range 128 := by
  have low : ∀ i ∈ List.range 128, (BitVec.toNat ∘ BitVec.ofNat 7) i = id i := fun i hi =>
    Nat.mod_eq_of_lt (List.mem_range.mp hi)
  rw [allSyms, List.map_map]
  exact (List.map_congr_left low).trans (List.map_id _)

/-- The counts of the symbols in a text of symbols add up to its length (R193 (4)). -/
theorem sum_count_allSyms {text : List Nat} (h : ∀ c ∈ text, c < 128) :
    (allSyms.map fun k => text.count k.toNat).sum = text.length := by
  have range : (allSyms.map fun k => text.count k.toNat) = (List.range 128).map fun i => text.count i := by
    rw [← allSyms_map_toNat, List.map_map]
    rfl
  rw [range, ← List.sum_toFinset _ List.nodup_range]
  have all := Multiset.sum_count_eq_card (s := (List.range 128).toFinset) (m := (text : Multiset Nat))
    fun c hc => by simpa using h c hc
  simpa only [Multiset.coe_count, Multiset.coe_card] using all

/-- Where the width holds every count, the entries add up to the text's length (R193 (4)). -/
theorem frequencies_sum {width : Option Nat} {text : List Nat} {f : Freq} (h : frequencies width text = .ok f)
    (fit : CountsFit width text) : f.toList.sum = text.length := by
  rw [freq_toList, ← sum_count_allSyms (lt_of_frequencies_ok h)]
  exact congrArg List.sum (List.map_congr_left fun k _ => frequencies_eq_count h fit k)

/-- Settles O53: character by character, the last one's entry is the one that changes. -/
theorem frequencyCounterCountsTheText : Obligations.FrequencyCounterCountsTheText := by
  unfold Obligations.FrequencyCounterCountsTheText
  refine fun width text => ⟨frequencies_of_out_of_range width, fun range => ?_⟩
  obtain ⟨f, hf⟩ := frequencies_of_in_range width range
  exact ⟨f, hf, fun w hw k => frequencies_lt (hw ▸ hf) k,
    fun fit => ⟨frequencies_sum hf fit, frequencies_eq_count hf fit⟩⟩

end Sys2Proof.Proofs
end

section
/-! The family of the host reference procedure (spec/45_host_reference.md), third part: the LUT of a built table (R188),
and the round trip on it (R193). -/

namespace Sys2Proof.Proofs

open Sys2Proof.Machine Sys2Proof.Laws Sys2Proof.Reference

/-! ## The LUT of a table that names no symbol twice -/

/-- Of a table that names no symbol twice, entries of the same symbol are the same. -/
theorem eq_of_same_key {table : SymbolTable} (nodup : (table.map Prod.fst).Nodup) {p q : Sym × List Bool}
    (hp : p ∈ table) (hq : q ∈ table) (h : p.1 = q.1) : p = q :=
  List.inj_on_of_nodup_map nodup hp hq h

/-- The row of each entry, where no symbol is named twice (R188). -/
theorem lutAt_lutOf {table : SymbolTable} (nodup : (table.map Prod.fst).Nodup) {p : Sym × List Bool} (hp : p ∈ table) :
    lutAt (lutOf table) p.1 = rowOf p.2 := by
  induction table using List.reverseRecOn with
  | nil => simp at hp
  | append_singleton table q ih =>
    rw [lutOf_concat, lutAt_set]
    by_cases same : p.1 = q.1
    · rw [if_pos same, eq_of_same_key nodup hp (by simp) same]
    · have before : p ∈ table := by
        rcases List.mem_append.mp hp with mem | mem
        · exact mem
        · exact absurd (congrArg Prod.fst (List.mem_singleton.mp mem)) same
      rw [if_neg same]
      rw [List.map_append] at nodup
      exact ih nodup.of_append_left before

/-- The order of the entries does not matter, where no symbol is named twice (R188). -/
theorem lutOf_perm {table table' : SymbolTable} (nodup : (table.map Prod.fst).Nodup) (h : table.Perm table') :
    lutOf table = lutOf table' := by
  refine h.foldl_eq' (fun p hp q hq lut => ?_) _
  by_cases same : p.1 = q.1
  · rw [eq_of_same_key nodup hp hq same]
  · exact Vector.set_comm _ _ fun h => same (BitVec.eq_of_toNat_eq h)

/-- The rows of a loaded table are well-formed (R47 (f), R38). -/
theorem rowOk_lutOf (table : SymbolTable) (k : Sym) : RowOk (lutAt (lutOf table) k) := by
  obtain ⟨u, -, -, lut, ok⟩ := run_loadTable (s := State.reset) table rfl rfl []
  exact lut ▸ ok.rows k

/-- The length of a loaded row is the number of characters of the code string, where that fits LEN (R188). -/
theorem rowOf_len {c : List Bool} (h : c.length ≤ 127) : (rowOf c).len.toNat = c.length :=
  Nat.mod_eq_of_lt (Nat.lt_succ_of_le h)

/-- The LUT of one entry with the empty code is degenerate (R152). -/
theorem degenerateAt_lutOf (k : Sym) : (lutOf [(k, [])]).DegenerateAt k := by
  constructor
  · refine List.perm_singleton.mp
      ((List.perm_ext_iff_of_nodup (validSyms_nodup _) (List.nodup_singleton k)).mpr fun j => ?_)
    rw [mem_validSyms, lutOf_valid_iff]
    rfl
  · rw [lutAt_lutOf (table := [(k, [])]) (List.nodup_singleton k) (List.mem_singleton_self (k, []))]
    rfl

/-! ## The LUT of a built table -/

section

variable {f : Freq} {t : Tree} (built : Builds (leaves f) t)

include built

/-- The valid rows of the LUT are the symbols used (R188). -/
theorem built_valid_iff (k : Sym) : (lutAt (lutOf (codes t [])) k).valid = true ↔ 0 < f[k.toNat]'k.isLt := by
  rw [lutOf_valid_iff, mem_builds_keys built]

/-- Every valid row is that of an entry of the table (R188). -/
theorem exists_code_of_valid {k : Sym} (valid : (lutAt (lutOf (codes t [])) k).valid = true) :
    ∃ c, (k, c) ∈ codes t [] ∧ c.length ≤ 127 ∧ lutAt (lutOf (codes t [])) k = rowOf c := by
  obtain ⟨⟨j, c⟩, mem, rfl⟩ := List.mem_map.mp ((lutOf_valid_iff _ k).mp valid)
  exact ⟨c, mem, builds_code_length built mem, lutAt_lutOf (builds_keys_nodup built) mem⟩

/-- The LUT is injective: codes that are the same are prefixes of each other (R193 (8)). -/
theorem built_injective : (lutOf (codes t [])).Injective := by
  intro i j hi hj len code
  obtain ⟨c, memc, shortc, rowc⟩ := exists_code_of_valid built hi
  obtain ⟨d, memd, shortd, rowd⟩ := exists_code_of_valid built hj
  have bits : (rowOf c).bits = (rowOf d).bits := by
    rw [← rowc, ← rowd]
    simp only [Entry.bits, len, code]
  rw [rowOf_bits shortc, rowOf_bits shortd] at bits
  exact congrArg Prod.fst (codes_prefix_free memc memd (bits ▸ List.prefix_rfl))

/-- R166's premise: one key has the empty code, and with more keys every code has a character (R193 (1)). -/
theorem built_codesSpeak : CodesSpeak (lutOf (codes t [])) := by
  cases t with
  | leaf s w => exact .inr ⟨s, degenerateAt_lutOf s⟩
  | node w l r =>
    refine .inl fun k valid => ?_
    obtain ⟨c, mem, short, row⟩ := exists_code_of_valid built valid
    rw [row, rowOf_len short]
    rcases List.mem_append.mp mem with left | right
    · exact (prefix_of_mem_codes left).length_le
    · exact (prefix_of_mem_codes right).length_le

/-- Decoding what was encoded with a built table gives it back and skips nothing (R193 (1)). -/
theorem built_roundTrip {bytes : List Byte} (good : ∀ b ∈ bytes, encodable (lutOf (codes t [])) b = true) :
    decStream (lutOf (codes t [])) (encStream (lutOf (codes t [])) bytes) = bytes ∧
      decSkips (lutOf (codes t [])) (encStream (lutOf (codes t [])) bytes) = 0 :=
  decStream_encStream (built_injective built) (rowOk_lutOf _) (built_codesSpeak built) good

/-- A built table of one key gives it the empty code (R193 (6)). -/
theorem codes_of_only_key {k : Sym} (only : ∀ j : Sym, 0 < f[j.toNat]'j.isLt → j = k) : codes t [] = [(k, [])] := by
  have keys : (codes t []).map Prod.fst ⊆ [k] := fun j hj =>
    List.mem_singleton.mpr (only j ((mem_builds_keys built j).mp hj))
  have one : (codes t []).length ≤ 1 := by
    simpa using ((builds_keys_nodup built).subperm keys).length_le
  cases t with
  | leaf s w =>
    obtain rfl : s = k := List.mem_singleton.mp (keys (List.mem_singleton_self s))
    rfl
  | node w l r =>
    have hl := codes_length_pos l
    have hr := codes_length_pos r
    rw [codes_node_length] at one
    omega

end

/-! ## The bytes of a text -/

/-- A symbol can be encoded exactly if it has a row (R132). -/
theorem encodable_setWidth (lut : Lut) (k : Sym) : encodable lut (k.setWidth 8) = (lutAt lut k).valid := by
  have low : (k.setWidth 8).toNat < 0x80 := by
    have := k.isLt
    simp
    omega
  rw [encodable, decide_eq_true low, Bool.true_and, BitVec.setWidth_setWidth_of_le _ (by decide), BitVec.setWidth_eq]

/-- The bytes of a text of symbols are those symbols, widened (R76). -/
theorem exists_sym_of_mem_textBytes {text : List Nat} (h : ∀ c ∈ text, c < 128) {b : Byte} (hb : b ∈ textBytes text) :
    ∃ k : Sym, k.toNat ∈ text ∧ b = k.setWidth 8 := by
  obtain ⟨c, hc, rfl⟩ := List.mem_map.mp hb
  have num : (BitVec.ofNat 7 c).toNat = c := Nat.mod_eq_of_lt (h c hc)
  exact ⟨BitVec.ofNat 7 c, num.symm ▸ hc, by rw [← BitVec.ofNat_toNat, num]⟩

/-- Where the width holds every count, every character of the text has a row (R193 (1), log 10). -/
theorem encodable_of_fits {width : Option Nat} {text : List Nat} {f : Freq} {t : Tree}
    (counted : frequencies width text = .ok f) (built : Builds (leaves f) t) (fit : CountsFit width text) :
    ∀ b ∈ textBytes text, encodable (lutOf (codes t [])) b = true := by
  intro b hb
  obtain ⟨k, hk, rfl⟩ := exists_sym_of_mem_textBytes (lt_of_frequencies_ok counted) hb
  rw [encodable_setWidth, built_valid_iff built, frequencies_eq_count counted fit]
  exact List.count_pos_iff.mpr hk

/-- The text of `n` times one symbol: the symbol's code is empty, and `n` spaces decode to the text (R193 (6)). -/
theorem built_oneSymbol {width : Option Nat} {f : Freq} {t : Tree} {k : Sym} {n : Nat}
    (counted : frequencies width (List.replicate n k.toNat) = .ok f) (built : Builds (leaves f) t) :
    codes t [] = [(k, [])] ∧
      decStream (lutOf (codes t [])) (List.replicate n 0x20) = textBytes (List.replicate n k.toNat) := by
  have sole : codes t [] = [(k, [])] := codes_of_only_key built fun j pos =>
    BitVec.eq_of_toNat_eq (List.eq_of_mem_replicate (mem_of_frequencies_pos counted pos))
  have bytes : textBytes (List.replicate n k.toNat) = List.replicate n (k.setWidth 8) := by
    rw [textBytes, List.map_replicate, BitVec.ofNat_toNat]
  have degenerate := degenerateAt_lutOf k
  rw [← sole] at degenerate
  have good : ∀ b ∈ List.replicate n (k.setWidth 8), encodable (lutOf (codes t [])) b = true := fun b hb => by
    rw [List.eq_of_mem_replicate hb, encodable_setWidth, lutOf_valid_iff, sole]
    exact List.mem_singleton_self k
  rw [bytes, ← degenerateEncodingIsSpaces.1 _ k n degenerate]
  exact ⟨sole, (built_roundTrip built good).1⟩

/-- What the source promises of its procedure (R193). -/
theorem built_r193 {width : Option Nat} {text : List Nat} {f : Freq} {t : Tree}
    (counted : frequencies width text = .ok f) (built : Builds (leaves f) t) : R193 width text f t where
  roundTrip fit := (built_roundTrip built (encodable_of_fits counted built fit)).1
  prefixFree _ hp _ hq := codes_prefix_free hp hq
  weights := ⟨builds_conserves built, builds_weight built⟩
  countsAddUp := frequencies_sum counted
  oneSymbol k n eq := by
    subst eq
    exact built_oneSymbol counted built
  injective := built_injective built

/-- Settles O57: the load is that of any table, the codes determine the symbols, and decoding undoes encoding. -/
theorem builtTablesRoundTrip : Obligations.BuiltTablesRoundTrip := by
  unfold Obligations.BuiltTablesRoundTrip
  intro width text f t counted built
  refine ⟨fun s seen idle => ?_, built_r193 counted built, encodable_of_fits counted built, built_roundTrip built⟩
  obtain ⟨u, run, -, lut, count⟩ := loadCodeWritesTheRow.2 s (codes t []) seen idle
  rw [(builds_keys_nodup built).dedup, List.length_map] at count
  exact ⟨u, run, lut, count⟩

end Sys2Proof.Proofs
end

section
/-! The family of the host reference procedure (spec/45_host_reference.md), fourth part: the host's load and its start
of a job, as runs of the block, and what a job of the host can give (R188 to R191, R205, R237). -/

namespace Sys2Proof.Proofs

open Sys2Proof.Machine Sys2Proof.Laws Sys2Proof.Reference

/-! ## The host's moves -/

/-- A run is a first step and the run after it. -/
theorem step_of_run_succ {n : Nat} {s t : State} (h : core.run (n + 1) s = .next t) :
    ∃ u, step s = .next u ∧ core.run n u = .next t := by
  cases hstep : step s with
  | next u => exact ⟨u, rfl, by simpa [Host.Core.run, core, hstep] using h⟩
  | fault r => cases r
  | refused r => simp [Host.Core.run, core, hstep] at h

/-- The invariants hold all along a run (R47). -/
theorem inv_of_run {n : Nat} {s t : State} (h : core.run n s = .next t) (inv : s.Inv) : t.Inv := by
  induction n generalizing s with
  | zero =>
    obtain rfl : s = t := Host.Outcome.next.inj h
    exact inv
  | succ n ih =>
    obtain ⟨u, first, rest⟩ := step_of_run_succ h
    exact ih rest (stepKeepsInvariants s u inv first)

/-- A step whose next move is not Reset comes after the first reset (R232). -/
theorem seen_of_step {s t : State} {m : Turn} {ts : List Turn} (h : step s = .next t) (hts : s.host.turns = m :: ts)
    (hm : m ≠ .reset) : s.resetSeen = true := by
  rcases step_cases h with ⟨-, ts', hts', -⟩ | ⟨seen, -⟩ | ⟨seen, -⟩
  · rw [hts] at hts'
    exact absurd (List.cons.inj hts').1 hm
  · exact seen
  · exact seen

/-- A run whose first move is not Reset comes after the first reset (R232). -/
theorem seen_of_run {s t : State} {m : Turn} {ts : List Turn} {n : Nat}
    (h : core.run (n + 1) (s.setTurns (m :: ts)) = .next t) (hm : m ≠ .reset) : s.resetSeen = true := by
  obtain ⟨u, first, -⟩ := step_of_run_succ h
  exact seen_of_step (s := s.setTurns (m :: ts)) first rfl hm

/-- The host's moves keep the invariants (R47). -/
theorem inv_of_makes {ms : List Turn} {s t : State} (h : Makes ms s t) (inv : s.Inv) : t.Inv := by
  obtain ⟨ts, run⟩ := h
  exact inv_of_run run ((inv_setTurns s _).mpr inv)

/-- After a load no job runs, and the LUT is the table's (R188). -/
theorem loaded_of_makes {table : SymbolTable} {s t : State} (h : Makes (loadTable table) s t)
    (idle : s.eng.job = .idle) : t.eng.job = .idle ∧ t.lut = lutOf table := by
  obtain ⟨ts, run⟩ := h
  have seen : s.resetSeen = true := seen_of_run run (by simp [cmdTurn])
  obtain ⟨u, run', frame, lut, -⟩ := run_loadTable table seen idle ts
  obtain rfl : t = u := Host.Outcome.next.inj (run.symm.trans run')
  exact ⟨(congrArg (fun s => s.eng.job) frame).trans idle, lut⟩

/-- The state with this IN_LEN (R29, R91). -/
def withInLen (n : Word) (s : State) : State :=
  { s with inLen := n }

/-- A start of a job executes the start command with IN_LEN written (R189, R190). -/
theorem exec_of_makes_startJob {i : Instr} {n : Word} {s t : State} (h : Makes (startJob i n) s t) :
    ∃ ts, exec i (withInLen n (s.setTurns ts)) = .next t := by
  obtain ⟨ts, run⟩ := h
  have seen : s.resetSeen = true := seen_of_run run (by simp)
  have reg : regOfOffset 0x14 = .inLen := by decide
  have wrote : writeRegs [(0x14, n)] s = withInLen n s := by
    simp only [writeRegs, List.foldl, reg, writeReg]
    rfl
  have noCmd : ∀ p ∈ [((0x14 : BitVec 6), n)], regOfOffset p.1 ≠ .cmd := by
    simp only [List.forall_mem_singleton]
    decide
  have write := run_writeTurns noCmd (cmdTurn i :: ts) seen
  rw [wrote] at write
  obtain ⟨u, start, stop⟩ := step_of_run_succ ((run_add core write).symm.trans run)
  obtain rfl : u = t := Host.Outcome.next.inj stop
  have seen' : (withInLen n s).resetSeen = true := seen
  have turn := step_setTurns_cons (m := cmdTurn i) ts seen' rfl
  rw [turnRun_cmdTurn] at turn
  exact ⟨ts, turn.symm.trans start⟩

/-! ## The start of a job -/

/-- The state in which the start command finds the block: the host's start leaves all but IN_LEN and its moves alone. -/
structure ReadyFor (input : List Byte) (s r : State) : Prop where
  inv : r.Inv
  idle : r.eng.job = .idle
  lut : r.lut = s.lut
  tableCount : r.tableCount = s.tableCount
  inLen : r.inLen.toNat = input.length

/-- The host's start of a job executes the start command (R189, R190). -/
theorem exec_of_startsJob {i : Instr} {input : List Byte} {s t : State} (h : Reference.StartsJob i input s t)
    (inv : s.Inv) (idle : s.eng.job = .idle) : t.Inv ∧ ∃ r, ReadyFor input s r ∧ exec i r = .next t := by
  obtain ⟨fits, makes⟩ := h
  obtain ⟨ts, run⟩ := exec_of_makes_startJob makes
  have inv' : (withInLen (BitVec.ofNat 32 input.length) (s.setTurns ts)).Inv := (inv_iff _).mpr ((inv_iff s).mp inv)
  exact ⟨inv_of_makes makes inv, _, ⟨inv', idle, rfl, rfl, Nat.mod_eq_of_lt fits⟩, run⟩

/-- A job on this input begins in `t`, on the LUT of `s`. -/
structure Begins (kind : Job) (input : List Byte) (s t : State) : Prop where
  inv : t.Inv
  started : JustStarted kind t
  lut : t.lut = s.lut
  length : input.length = t.eng.remaining.toNat

/-- A start command has failed: no job runs, and STATUS has the error (R205). -/
def FailsWith (c : ErrCode) (t : State) : Prop :=
  t.eng.job = .idle ∧ t.errCode = c

/-- With no job running, OUT.slot is empty (R47 (c)). -/
theorem outSlot_of_idle {s : State} (inv : s.Inv) (idle : s.eng.job = .idle) : s.outSlot = none := by
  by_contra held
  exact inv.outSlotOnlyBusy held idle

/-- ENC_START fails without a table or an input, and else begins a job (R130). -/
theorem encode_fails_or_begins {input : List Byte} {s t : State} (h : Reference.StartsJob .encStart input s t)
    (inv : s.Inv) (idle : s.eng.job = .idle) :
    (FailsWith .emptyInput t ∧ (s.tableCount = 0 ∨ input = [])) ∨ Begins .enc input s t := by
  obtain ⟨inv', r, ready, run⟩ := exec_of_startsJob h inv idle
  rw [exec, execEncStart, whenIdle_of_idle _ ready.idle, Host.Outcome.next.injEq] at run
  by_cases missing : r.tableCount = 0 ∨ r.inLen = 0
  · rw [encStart_of_empty ready.idle missing] at run
    refine .inl ⟨run ▸ ⟨ready.idle, rfl⟩, missing.imp (fun zero => ready.tableCount ▸ zero) fun zero => ?_⟩
    exact List.eq_nil_of_length_eq_zero (by rw [← ready.inLen, zero]; rfl)
  · rw [not_or] at missing
    rw [encStart_of_nonempty missing.1 missing.2] at run
    subst run
    exact .inr ⟨inv', ⟨rfl, rfl, rfl, rfl, outSlot_of_idle (s := r) ready.inv ready.idle, rfl,
      (ready.inv.idleNothingOpen ready.idle).2⟩, ready.lut, ready.inLen.symm⟩

/-- DEC_START fails on a table with a duplicate, and else begins a job (R150). -/
theorem decode_fails_or_begins {input : List Byte} {s t : State} (h : Reference.StartsJob .decStart input s t)
    (inv : s.Inv) (idle : s.eng.job = .idle) :
    (FailsWith .injectivity t ∧ ¬ s.lut.Injective) ∨ (Begins .dec input s t ∧ s.lut.Injective) := by
  obtain ⟨inv', r, ready, run⟩ := exec_of_startsJob h inv idle
  rw [exec, execDecStart, whenIdle_of_idle _ ready.idle, Host.Outcome.next.injEq] at run
  have unique := findDup_none_iff r
  rw [ready.lut] at unique
  cases found : r.findDup with
  | some p =>
    rw [decStart_of_duplicate found ready.idle] at run
    exact .inl ⟨run ▸ ⟨ready.idle, rfl⟩, fun injective => by simp [unique.mpr injective] at found⟩
  | none =>
    obtain ⟨d, k, -, begun⟩ := decBegin_eq r
    rw [decStart_of_unique found, begun] at run
    subst run
    exact .inr ⟨⟨inv', ⟨rfl, rfl, rfl, rfl, outSlot_of_idle (s := r) ready.inv ready.idle,
      (ready.inv.idleNothingOpen ready.idle).1, rfl⟩, ready.lut, ready.inLen.symm⟩, unique.mp found⟩

/-! ## The end of a job -/

/-- Only a job that began has an end (R240). -/
theorem job_of_jobEnds {kind : Job} {s u : State} {bs : List Byte} (h : JobEnds kind s bs u) : s.eng.job = kind := by
  obtain ⟨bs', t, run, -⟩ := h
  induction run with
  | start hs => exact hs
  | more _ _ _ _ _ _ ih => exact ih

/-- An encode job that ends had begun (R130, R240). -/
theorem begins_of_encode_ends {input bs : List Byte} {s t u : State} (h : Reference.StartsJob .encStart input s t)
    (inv : s.Inv) (idle : s.eng.job = .idle) (ends : JobEnds .enc t bs u) : Begins .enc input s t := by
  rcases encode_fails_or_begins h inv idle with ⟨⟨stopped, -⟩, -⟩ | begins
  · rw [job_of_jobEnds ends] at stopped
    cases stopped
  · exact begins

/-- A decode job that ends had begun, on a table without a duplicate (R150, R240). -/
theorem begins_of_decode_ends {input bs : List Byte} {s t u : State} (h : Reference.StartsJob .decStart input s t)
    (inv : s.Inv) (idle : s.eng.job = .idle) (ends : JobEnds .dec t bs u) :
    Begins .dec input s t ∧ s.lut.Injective := by
  rcases decode_fails_or_begins h inv idle with ⟨⟨stopped, -⟩, -⟩ | begins
  · rw [job_of_jobEnds ends] at stopped
    cases stopped
  · exact begins

/-- A decode job that ends with an error was aborted (R97, R202). -/
theorem aborted_of_decode_err {s u : State} {bs : List Byte} (inv : s.Inv) (ends : JobEnds .dec s bs u)
    (err : u.err = true) : u.errCode = .aborted := by
  obtain ⟨bs', t, run, last, -⟩ := ends
  have job := jobRun_job run
  have abort : CommandIsNext .abort t := by
    by_contra other
    rw [decodeJobsRaiseNoError t u (jobRun_inv inv run) last job other] at err
    cases err
  obtain ⟨off, w, ts, hts, hoff, hw⟩ := abort
  have seen := seen_of_step last hts (by simp)
  have busy : (t.setTurns ts).eng.job ≠ .idle := by
    change t.eng.job ≠ .idle
    rw [job]
    decide
  rw [stepRunsTheDecodedCommand t off w ts .abort seen hts hoff hw, exec_abort_of_busy busy] at last
  obtain rfl := Host.Outcome.next.inj last
  rfl

/-- A stream has no more tokens than bytes, the open token's included (R153). -/
theorem tokensFrom_length_le (cur u : List Byte) : (tokensFrom cur u).length ≤ cur.length + u.length := by
  have opened (cur : List Byte) : (if cur.isEmpty = true then [] else [cur]).length ≤ cur.length := by
    cases cur <;> simp
  induction u generalizing cur with
  | nil => exact opened cur
  | cons b u ih =>
    cases white : isWhitespace b with
    | true =>
      have rest := ih []
      rw [tokensFrom_whitespace cur u white, List.length_append, List.length_cons]
      rw [List.length_nil] at rest
      have := opened cur
      omega
    | false =>
      have rest := ih (cur ++ [b])
      rw [List.length_append, List.length_singleton] at rest
      rw [tokensFrom_token cur u white, List.length_cons]
      omega

/-- A decode job skips no more tokens than its input has bytes (R161, R163). -/
theorem decSkips_le_length (lut : Lut) (u : List Byte) : decSkips lut u ≤ u.length := by
  have all : (tokens u).length ≤ u.length := by simpa [tokens] using tokensFrom_length_le [] u
  unfold decSkips
  split
  · exact all
  · exact (List.length_filter_le _ _).trans all

end Sys2Proof.Proofs
end

section
/-! The family of the host reference procedure (spec/45_host_reference.md), fifth part: what a job of the host can give
(R191, R205, R237), and with it compression and decompression (R189, R190). -/

namespace Sys2Proof.Proofs

open Sys2Proof.Machine Sys2Proof.Laws Sys2Proof.Reference

/-! ## Jobs of the host -/

/-- What the host of an encode job gets on this LUT (R137, R138, R191): the token stream of an input that can be
encoded, or an error for a reason. -/
inductive EncodeResult (lut : Lut) (input : List Byte) : Except HostError (List Byte) → Prop
  | stream (good : ∀ b ∈ input, encodable lut b = true) : EncodeResult lut input (.ok (encStream lut input))
  | empty (missing : validSyms lut = [] ∨ input = []) : EncodeResult lut input (.error .emptyInput)
  | inputRange (b : Byte) (hb : b ∈ input) (range : 0x80 ≤ b.toNat) : EncodeResult lut input (.error .inputRange)
  | missingCode (b : Byte) (hb : b ∈ input) (bad : encodable lut b = false) :
      EncodeResult lut input (.error .missingCode)
  | aborted : EncodeResult lut input (.error .aborted)

/-- The error of an encode job that fails on the way is that of a byte of its input, or the host aborted it (R191). -/
theorem encodeResult_of_err {input bs : List Byte} {s t u : State} {e : HostError} (begins : Begins .enc input s t)
    (ends : JobEnds .enc t bs u) (consumed : bs <+: input) (err : u.err = true) (he : surfaced u.errCode = some e) :
    EncodeResult s.lut input (.error e) := by
  by_cases abort : u.errCode = .aborted
  · rw [abort] at he
    obtain rfl := Option.some.inj he
    exact .aborted
  · obtain ⟨good, bad, rfl, -, notCoded, code, -⟩ :=
      failedEncodeJobStopsAtTheFirstBadByte t u bs begins.inv begins.started ends err abort
    have mem : bad ∈ input := consumed.subset (by simp)
    rw [begins.lut] at notCoded
    rw [code] at he
    split at he
    · rename_i range
      obtain rfl := Option.some.inj he
      exact .inputRange bad mem range
    · obtain rfl := Option.some.inj he
      exact .missingCode bad mem notCoded

/-- Every outcome of an encode job of the host is one of these (R189, R191). -/
theorem encodeResult_of_hostJob {P : HostParams} {input : List Byte} {s : State} {r : Except HostError (List Byte)}
    (inv : s.Inv) (idle : s.eng.job = .idle) (h : HostJob P .encStart .enc input s r) : EncodeResult s.lut input r := by
  cases h with
  | notStarted t e hs stopped err he =>
    rcases encode_fails_or_begins hs inv idle with ⟨⟨-, code⟩, missing⟩ | begins
    · rw [code] at he
      obtain rfl := Option.some.inj he
      refine .empty (missing.imp_left fun zero => List.eq_nil_of_length_eq_zero ?_)
      rw [← inv.tableCountIsValidRows, zero]
      rfl
    · rw [begins.started.jobRuns] at stopped
      cases stopped
  | failed t u bs e hs ends consumed err he =>
    exact encodeResult_of_err (begins_of_encode_ends hs inv idle ends) ends consumed err he
  | skipped t u hs ends done reject =>
    have begins := begins_of_encode_ends hs inv idle ends
    obtain ⟨-, -, -, -, -, noSkip⟩ := encodeJobDeliversItsTokenStream t u input begins.inv begins.started ends done
    simp [rejects, noSkip] at reject
  | delivered t u out hs ends done accept taken =>
    have begins := begins_of_encode_ends hs inv idle ends
    obtain ⟨stream, good, -⟩ := encodeJobDeliversItsTokenStream t u input begins.inv begins.started ends done
    obtain rfl : out = encStream t.lut input := List.append_cancel_left (taken.symm.trans stream)
    rw [begins.lut] at good ⊢
    exact .stream good

/-- What the host of a decode job gets on this LUT (R161, R163, R191): the decoder's output, where its policy accepts
the skips, or an error for a reason. -/
inductive DecodeResult (P : HostParams) (lut : Lut) (input : List Byte) : Except HostError (List Byte) → Prop
  | output (injective : lut.Injective) (accept : P.skipsFail = true → decSkips lut input = 0) :
      DecodeResult P lut input (.ok (decStream lut input))
  | duplicate (same : ¬ lut.Injective) : DecodeResult P lut input (.error .injectivity)
  | skips (injective : lut.Injective) (policy : P.skipsFail = true) (nonzero : decSkips lut input ≠ 0) :
      DecodeResult P lut input (.error .tokensSkipped)
  | aborted (injective : lut.Injective) : DecodeResult P lut input (.error .aborted)

/-- The host rejects a decode job exactly if its policy is to fail and a token was skipped: 32 bits hold the count of an
input whose length they hold (R161, R36). -/
theorem rejects_iff {P : HostParams} {input : List Byte} {s t u : State} (begins : Begins .dec input s t)
    (ends : JobEnds .dec t input u) (done : u.done = true) :
    rejects P u = true ↔ P.skipsFail = true ∧ decSkips s.lut input ≠ 0 := by
  obtain ⟨-, length, -, -, skips⟩ := decodeJobDeliversTheMatchedSymbols t u input begins.inv begins.started ends done
  have fits : decSkips t.lut input < 2 ^ 32 :=
    (decSkips_le_length t.lut input).trans_lt (length ▸ t.eng.remaining.isLt)
  rw [Nat.mod_eq_of_lt fits, begins.lut] at skips
  rw [← skips, rejects, Bool.and_eq_true, bne_iff_ne, BitVec.toNat_ne]
  rfl

/-- Every outcome of a decode job of the host is one of these (R190, R191). -/
theorem decodeResult_of_hostJob {P : HostParams} {input : List Byte} {s : State} {r : Except HostError (List Byte)}
    (inv : s.Inv) (idle : s.eng.job = .idle) (h : HostJob P .decStart .dec input s r) :
    DecodeResult P s.lut input r := by
  cases h with
  | notStarted t e hs stopped err he =>
    rcases decode_fails_or_begins hs inv idle with ⟨⟨-, code⟩, same⟩ | ⟨begins, -⟩
    · rw [code] at he
      obtain rfl := Option.some.inj he
      exact .duplicate same
    · rw [begins.started.jobRuns] at stopped
      cases stopped
  | failed t u bs e hs ends consumed err he =>
    obtain ⟨begins, injective⟩ := begins_of_decode_ends hs inv idle ends
    rw [aborted_of_decode_err begins.inv ends err] at he
    obtain rfl := Option.some.inj he
    exact .aborted injective
  | skipped t u hs ends done reject =>
    obtain ⟨begins, injective⟩ := begins_of_decode_ends hs inv idle ends
    obtain ⟨policy, nonzero⟩ := (rejects_iff begins ends done).mp reject
    exact .skips injective policy nonzero
  | delivered t u out hs ends done accept taken =>
    obtain ⟨begins, injective⟩ := begins_of_decode_ends hs inv idle ends
    obtain ⟨stream, -⟩ := decodeJobDeliversTheMatchedSymbols t u input begins.inv begins.started ends done
    obtain rfl : out = decStream t.lut input := List.append_cancel_left (taken.symm.trans stream)
    rw [begins.lut]
    refine .output injective fun policy => ?_
    by_contra nonzero
    rw [(rejects_iff begins ends done).mpr ⟨policy, nonzero⟩] at accept
    cases accept

/-! ## Compression and decompression -/

/-- A decode of a table and stream is a decode job on the LUT the table loads (R188, R190). -/
theorem decodeResult_of_restores {P : HostParams} {table : SymbolTable} {coded : List Byte} {s : State}
    {r : Except HostError (List Byte)} (inv : s.Inv) (h : Restores P table coded s r) :
    DecodeResult P (lutOf table) coded r := by
  obtain ⟨idle, t, load, job⟩ := h
  obtain ⟨idle', lut⟩ := loaded_of_makes load idle
  exact lut ▸ decodeResult_of_hostJob (inv_of_makes load inv) idle' job

/-- What a compression gives: an error before a table is loaded, or what the encode job on the loaded table gives
(R189). -/
theorem compresses_cases {P : HostParams} {text : List Nat} {s : State} {r : Except HostError (List Byte)} (inv : s.Inv)
    (h : Compresses P text s r) :
    (∃ e, r = .error e ∧ frequencies P.countWidth text = .error e) ∨
    (r = .error .emptyInput ∧ ∃ f, frequencies P.countWidth text = .ok f ∧ leaves f = []) ∨
    ∃ table r', TableOf P.countWidth text table ∧ EncodeResult (lutOf table) (textBytes text) r' ∧
      r = r'.map (fileOf P table) := by
  cases h with
  | notCounted e hf => exact .inl ⟨e, rfl, hf⟩
  | noSymbol f hf hl => exact .inr (.inl ⟨rfl, f, hf, hl⟩)
  | encoded table t r' file ht idle load job hfile =>
    obtain ⟨idle', lut⟩ := loaded_of_makes load idle
    exact .inr (.inr ⟨table, r', ht, lut ▸ encodeResult_of_hostJob (inv_of_makes load inv) idle' job, hfile⟩)

/-- A compression that succeeds gives table section, separator and token stream of the whole text (R189). -/
theorem compresses_ok {P : HostParams} {text : List Nat} {s : State} {file : List Byte} (inv : s.Inv)
    (h : Compresses P text s (.ok file)) : ∃ table, TableOf P.countWidth text table ∧
      (∀ b ∈ textBytes text, encodable (lutOf table) b = true) ∧
      file = fileOf P table (encStream (lutOf table) (textBytes text)) := by
  rcases compresses_cases inv h with ⟨e, failed, -⟩ | ⟨failed, -⟩ | ⟨table, r, ht, result, hr⟩
  · cases failed
  · cases failed
  · cases result with
    | stream good => exact ⟨table, ht, good, Except.ok.inj hr⟩
    | empty | inputRange | missingCode | aborted => cases hr

/-- The counter's one error is a character above 127 (R180). -/
theorem frequencies_error {width : Option Nat} {text : List Nat} {e : HostError}
    (h : frequencies width text = .error e) : e = .inputRange ∧ ∃ c ∈ text, 128 ≤ c := by
  have out : ∃ c ∈ text, 128 ≤ c := by
    by_contra range
    obtain ⟨f, hf⟩ := frequencies_of_in_range width (text := text) (by simpa using range)
    rw [hf] at h
    cases h
  rw [frequencies_of_out_of_range width out] at h
  exact ⟨(Except.error.inj h).symm, out⟩

/-- No symbol is used only in the empty text, where the width holds every count (R185, log 10). -/
theorem empty_of_no_leaves {width : Option Nat} {text : List Nat} {f : Freq} (counted : frequencies width text = .ok f)
    (unused : leaves f = []) (fit : CountsFit width text) : text = [] := by
  have sum := leaves_weight_sum f
  rw [unused, frequencies_sum counted fit] at sum
  exact List.eq_nil_of_length_eq_zero sum.symm

/-- A compression that fails, fails for one of these reasons (R191, log 10). -/
theorem compresses_error {P : HostParams} {text : List Nat} {s : State} {e : HostError} (inv : s.Inv)
    (h : Compresses P text s (.error e)) :
    (e = .inputRange ∧ ∃ c ∈ text, 128 ≤ c) ∨ (e = .emptyInput ∧ (text = [] ∨ ¬ CountsFit P.countWidth text)) ∨
      (e = .missingCode ∧ ¬ CountsFit P.countWidth text) ∨ e = .aborted := by
  rcases compresses_cases inv h with ⟨e', failed, hf⟩ | ⟨failed, f, counted, unused⟩ | ⟨table, r, ht, result, hr⟩
  · obtain rfl := Except.error.inj failed
    exact .inl (frequencies_error hf)
  · obtain rfl := Except.error.inj failed
    refine .inr (.inl ⟨rfl, ?_⟩)
    by_cases fit : CountsFit P.countWidth text
    · exact .inl (empty_of_no_leaves counted unused fit)
    · exact .inr fit
  · obtain ⟨f, t, counted, built, rfl⟩ := ht
    cases result with
    | stream good => cases hr
    | empty missing =>
      obtain rfl := Except.error.inj hr
      have rows : validSyms (lutOf (codes t [])) ≠ [] := by
        rw [← List.length_pos_iff, validSyms_lutOf_length, (builds_keys_nodup built).dedup, List.length_map]
        exact codes_length_pos t
      exact .inr (.inl ⟨rfl, .inl (List.map_eq_nil_iff.mp (missing.resolve_left rows))⟩)
    | inputRange b hb range =>
      obtain ⟨k, -, rfl⟩ := exists_sym_of_mem_textBytes (lt_of_frequencies_ok counted) hb
      have := k.isLt
      simp at range
      omega
    | missingCode b hb bad =>
      obtain rfl := Except.error.inj hr
      refine .inr (.inr (.inl ⟨rfl, fun fit => ?_⟩))
      rw [encodable_of_fits counted built fit b hb] at bad
      cases bad
    | aborted =>
      obtain rfl := Except.error.inj hr
      exact .inr (.inr (.inr rfl))

/-- A decompression of a compressed text gives the text, unless the host aborts it (R190, R193 (1)). -/
theorem decompresses_compressed {P : HostParams} {text : List Nat} {s s' : State} {file : List Byte}
    {r : Except HostError (List Byte)} (self : SelfDescribing P) (inv : s.Inv) (inv' : s'.Inv)
    (h : Compresses P text s (.ok file)) (h' : Decompresses P file s' r) :
    r = .ok (textBytes text) ∨ r = .error .aborted := by
  obtain ⟨table, ⟨f, t, counted, built, rfl⟩, good, rfl⟩ := compresses_ok inv h
  obtain ⟨table', coded, same, restores⟩ := h'
  rw [fileOf, fileOf, List.append_assoc, List.append_assoc] at same
  obtain ⟨perm, rest⟩ := self _ _ _ _ same
  obtain rfl := List.append_cancel_left rest
  have result := decodeResult_of_restores inv' restores
  rw [← lutOf_perm (builds_keys_nodup built) perm] at result
  obtain ⟨decoded, noSkip⟩ := built_roundTrip built good
  cases result with
  | output => exact .inl (congrArg Except.ok decoded)
  | duplicate same => exact absurd (built_injective built) same
  | skips _ _ nonzero => exact absurd noSkip nonzero
  | aborted => exact .inr rfl

/-- Settles O60: the outcomes of the host's two transforms are those of its jobs on the loaded LUT. -/
theorem compressedTextDecompressesToItself : Obligations.CompressedTextDecompressesToItself := by
  unfold Obligations.CompressedTextDecompressesToItself
  refine ⟨fun P text s file => compresses_ok, fun P text s e => compresses_error,
    fun P text s s' file r => decompresses_compressed, fun P table coded s r inv restores => ?_⟩
  cases decodeResult_of_restores inv restores with
  | output injective accept =>
    exact ⟨fun same => absurd injective same, fun out hout => ⟨(Except.ok.inj hout).symm, accept⟩, nofun⟩
  | duplicate same => exact ⟨fun _ => rfl, nofun, fun e he => .inr (.inl ⟨(Except.error.inj he).symm, same⟩)⟩
  | skips injective policy nonzero =>
    exact ⟨fun same => absurd injective same, nofun,
      fun e he => .inr (.inr ⟨(Except.error.inj he).symm, policy, nonzero⟩)⟩
  | aborted injective =>
    exact ⟨fun same => absurd injective same, nofun, fun e he => .inl (Except.error.inj he).symm⟩

end Sys2Proof.Proofs
end

section
/-! The family of the host reference procedure (spec/45_host_reference.md), sixth part: the priority queue (R181, R183).
What a sift keeps is a matter of the weights alone, the places beyond the array being infinitely heavy. -/

namespace Sys2Proof.Proofs

open Sys2Proof.Machine Sys2Proof.Laws Sys2Proof.Reference

/-! ## Weights by place -/

/-- The weight of the tree at a place of the array, infinite beyond its end. -/
def weightAt (h : List Tree) (i : Nat) : ℕ∞ :=
  (h[i]?).elim ⊤ fun t => (t.weight : ℕ∞)

theorem weightAt_of_some {h : List Tree} {i : Nat} {t : Tree} (hi : h[i]? = some t) : weightAt h i = t.weight := by
  rw [weightAt, hi, Option.elim_some]

theorem weightAt_of_le {h : List Tree} {i : Nat} (hi : h.length ≤ i) : weightAt h i = ⊤ := by
  rw [weightAt, List.getElem?_eq_none hi, Option.elim_none]

/-- The array of weights is that of a heap: no element is lighter than its parent (R193 (5)). -/
def Heap (w : Nat → ℕ∞) : Prop :=
  ∀ i, 0 < i → w ((i - 1) / 2) ≤ w i

theorem heapOrdered_iff (h : List Tree) : HeapOrdered h ↔ Heap (weightAt h) := by
  constructor
  · intro ordered i pos
    cases hi : h[i]? with
    | none =>
      rw [weightAt_of_le (List.getElem?_eq_none_iff.mp hi)]
      exact le_top
    | some x =>
      have inside : (i - 1) / 2 < h.length := by
        have := (List.getElem?_eq_some_iff.mp hi).1
        omega
      have hp := List.getElem?_eq_getElem inside
      rw [weightAt_of_some hi, weightAt_of_some hp]
      exact_mod_cast ordered i x _ pos hi hp
  · intro heap c x y pos hx hy
    have := heap c pos
    rw [weightAt_of_some hx, weightAt_of_some hy] at this
    exact_mod_cast this

/-- The root of a heap is a lightest element (R181). -/
theorem Heap.root_le {w : Nat → ℕ∞} (heap : Heap w) (i : Nat) : w 0 ≤ w i := by
  induction i using Nat.strong_induction_on with
  | _ i ih =>
    rcases Nat.eq_zero_or_pos i with rfl | pos
    · exact le_rfl
    · exact (ih _ (by omega)).trans (heap i pos)

/-- Only elements of the array are compared (R183). -/
theorem lighter_inside {h : List Tree} {a b : Nat} (light : lighter h a b = true) : a < h.length ∧ b < h.length := by
  unfold lighter at light
  split at light
  · rename_i ha hb
    exact ⟨(List.getElem?_eq_some_iff.mp ha).1, (List.getElem?_eq_some_iff.mp hb).1⟩
  · cases light

/-- The comparison is that of the weights, unless it is of an element with a place beyond the end (R183). -/
theorem lighter_iff {h : List Tree} {a b : Nat} (inside : b < h.length ∨ h.length ≤ a) :
    lighter h a b = true ↔ weightAt h a < weightAt h b := by
  unfold lighter
  cases ha : h[a]? with
  | none => simp [weightAt, ha]
  | some x =>
    have inside : b < h.length := inside.resolve_right (Nat.not_le.mpr (List.getElem?_eq_some_iff.mp ha).1)
    have hb := List.getElem?_eq_getElem inside
    rw [hb, weightAt_of_some ha, weightAt_of_some hb]
    simp

/-! ## The exchange of two elements -/

theorem swap_eq {h : List Tree} {i j : Nat} (hi : i < h.length) (hj : j < h.length) :
    swap h i j = (h.set i h[j]).set j h[i] := by
  rw [swap, List.getElem?_eq_getElem hi, List.getElem?_eq_getElem hj]

/-- A place that is empty is exchanged with none. -/
theorem swap_of_outside {h : List Tree} {i j : Nat} (outside : ¬(i < h.length ∧ j < h.length)) : swap h i j = h := by
  rw [swap]
  split
  · rename_i hi hj
    exact absurd ⟨(List.getElem?_eq_some_iff.mp hi).1, (List.getElem?_eq_some_iff.mp hj).1⟩ outside
  · rfl

theorem swap_perm (h : List Tree) (i j : Nat) : (swap h i j).Perm h := by
  by_cases inside : i < h.length ∧ j < h.length
  · rw [swap_eq inside.1 inside.2]
    exact List.set_set_perm inside.1 inside.2
  · rw [swap_of_outside inside]

@[simp] theorem swap_length (h : List Tree) (i j : Nat) : (swap h i j).length = h.length :=
  (swap_perm h i j).length_eq

theorem weightAt_swap {h : List Tree} {i j : Nat} (hi : i < h.length) (hj : j < h.length) :
    weightAt (swap h i j) = weightAt h ∘ Equiv.swap i j := by
  funext k
  rw [swap_eq hi hj, Function.comp_apply]
  by_cases kj : k = j
  · subst kj
    rw [Equiv.swap_apply_right]
    simp [weightAt, hi, hj]
  · by_cases ki : k = i
    · subst ki
      rw [Equiv.swap_apply_left]
      simp [weightAt, hi, hj, Ne.symm kj]
    · rw [Equiv.swap_apply_of_ne_of_ne ki kj]
      simp [weightAt, Ne.symm ki, Ne.symm kj]

/-! ## Sifts -/

/-- A heap but for the element at `c` and its parent: what a sift up meets (R181). -/
structure Rising (w : Nat → ℕ∞) (c : Nat) : Prop where
  others : ∀ i, 0 < i → i ≠ c → w ((i - 1) / 2) ≤ w i
  around : 0 < c → ∀ i, 0 < i → (i - 1) / 2 = c → w ((c - 1) / 2) ≤ w i

/-- A heap but for the element at `c` and its children: what a sift down meets (R181). -/
structure Sinking (w : Nat → ℕ∞) (c : Nat) : Prop where
  others : ∀ i, 0 < i → (i - 1) / 2 ≠ c → w ((i - 1) / 2) ≤ w i
  around : 0 < c → ∀ i, 0 < i → (i - 1) / 2 = c → w ((c - 1) / 2) ≤ w i

/-- An element that is not lighter than its parent has risen far enough. -/
theorem Rising.heap {w : Nat → ℕ∞} {c : Nat} (h : Rising w c) (high : 0 < c → w ((c - 1) / 2) ≤ w c) : Heap w := by
  intro i pos
  by_cases same : i = c
  · subst same
    exact high pos
  · exact h.others i pos same

/-- An element lighter than its parent rises to the parent's place. -/
theorem Rising.swap {w : Nat → ℕ∞} {c p : Nat} (h : Rising w c) (pos : 0 < c) (parent : (c - 1) / 2 = p)
    (light : w c < w p) : Rising (w ∘ Equiv.swap c p) p where
  others i hi ne := by
    simp only [Function.comp_apply]
    by_cases same : i = c
    · rw [same, parent, Equiv.swap_apply_left, Equiv.swap_apply_right]
      exact light.le
    · rw [Equiv.swap_apply_of_ne_of_ne same ne]
      by_cases child : (i - 1) / 2 = c
      · rw [child, Equiv.swap_apply_left, ← parent]
        exact h.around pos i hi child
      · by_cases sibling : (i - 1) / 2 = p
        · rw [sibling, Equiv.swap_apply_right]
          exact light.le.trans (sibling ▸ h.others i hi same)
        · rw [Equiv.swap_apply_of_ne_of_ne child sibling]
          exact h.others i hi same
  around hp i hi child := by
    have above : w ((p - 1) / 2) ≤ w p := h.others p hp (by omega)
    simp only [Function.comp_apply]
    rw [Equiv.swap_apply_of_ne_of_ne (by omega) (by omega)]
    by_cases same : i = c
    · rw [same, Equiv.swap_apply_left]
      exact above
    · rw [Equiv.swap_apply_of_ne_of_ne same (by omega)]
      exact above.trans (child ▸ h.others i hi same)

/-- An element that is not heavier than a lightest child has sunk far enough. -/
theorem Sinking.heap {w : Nat → ℕ∞} {i c : Nat} (h : Sinking w i)
    (least : ∀ j, 0 < j → (j - 1) / 2 = i → w c ≤ w j) (low : w i ≤ w c) : Heap w := by
  intro j pos
  by_cases child : (j - 1) / 2 = i
  · rw [child]
    exact low.trans (least j pos child)
  · exact h.others j pos child

/-- An element heavier than a lightest child sinks to the child's place. -/
theorem Sinking.swap {w : Nat → ℕ∞} {i c : Nat} (h : Sinking w i) (pos : 0 < c) (parent : (c - 1) / 2 = i)
    (least : ∀ j, 0 < j → (j - 1) / 2 = i → w c ≤ w j) (light : w c < w i) : Sinking (w ∘ Equiv.swap c i) c where
  others j hj ne := by
    simp only [Function.comp_apply]
    by_cases child : (j - 1) / 2 = i
    · rw [child, Equiv.swap_apply_right]
      by_cases same : j = c
      · rw [same, Equiv.swap_apply_left]
        exact light.le
      · rw [Equiv.swap_apply_of_ne_of_ne same (by omega)]
        exact least j hj child
    · rw [Equiv.swap_apply_of_ne_of_ne ne child]
      by_cases same : j = i
      · subst same
        rw [Equiv.swap_apply_right]
        exact h.around hj c pos parent
      · rw [Equiv.swap_apply_of_ne_of_ne (by omega) same]
        exact h.others j hj child
  around _ j hj child := by
    simp only [Function.comp_apply]
    rw [parent, Equiv.swap_apply_right, Equiv.swap_apply_of_ne_of_ne (by omega) (by omega), ← child]
    exact h.others j hj (by omega)

/-- The chosen child is a lightest one (R183). -/
theorem chosenChild_spec (h : List Tree) (i : Nat) :
    0 < chosenChild h i ∧ (chosenChild h i - 1) / 2 = i ∧
      ∀ j, 0 < j → (j - 1) / 2 = i → weightAt h (chosenChild h i) ≤ weightAt h j := by
  have compare : lighter h (2 * i + 2) (2 * i + 1) = true ↔ weightAt h (2 * i + 2) < weightAt h (2 * i + 1) :=
    lighter_iff (by omega)
  have children : ∀ j, 0 < j → (j - 1) / 2 = i → j = 2 * i + 1 ∨ j = 2 * i + 2 := fun j _ _ => by omega
  unfold chosenChild
  split
  · rename_i right
    refine ⟨by omega, by omega, fun j hj child => ?_⟩
    rcases children j hj child with rfl | rfl
    · exact (compare.mp right).le
    · exact le_rfl
  · rename_i left
    refine ⟨by omega, by omega, fun j hj child => ?_⟩
    rcases children j hj child with rfl | rfl
    · exact le_rfl
    · exact not_lt.mp (mt compare.mpr left)

theorem siftUp_perm (fuel : Nat) (h : List Tree) (c : Nat) : (siftUp fuel h c).Perm h := by
  induction fuel generalizing h c with
  | zero => exact .rfl
  | succ fuel ih =>
    rw [siftUp]
    split
    · exact (ih _ _).trans (swap_perm h _ _)
    · exact .rfl

theorem siftDown_perm (fuel : Nat) (h : List Tree) (i : Nat) : (siftDown fuel h i).Perm h := by
  induction fuel generalizing h i with
  | zero => exact .rfl
  | succ fuel ih =>
    rw [siftDown]
    split
    · exact (ih _ _).trans (swap_perm h _ _)
    · exact .rfl

/-- A sift up makes a heap: it has fuel for the way to the root (R181). -/
theorem siftUp_heap {fuel : Nat} {h : List Tree} {c : Nat} (rising : Rising (weightAt h) c) (enough : c ≤ fuel)
    (inside : c < h.length) : Heap (weightAt (siftUp fuel h c)) := by
  induction fuel generalizing h c with
  | zero => exact rising.heap fun pos => by omega
  | succ fuel ih =>
    have up : (c - 1) / 2 < h.length := by omega
    have compare := lighter_iff (a := c) (.inl up)
    rw [siftUp]
    split
    · rename_i rises
      obtain ⟨notRoot, light⟩ := rises
      have risen := rising.swap (Nat.pos_of_ne_zero notRoot) rfl (compare.mp light)
      rw [← weightAt_swap inside up] at risen
      exact ih risen (by omega) (by rwa [swap_length])
    · rename_i stays
      exact rising.heap fun pos => not_lt.mp fun light => stays ⟨pos.ne', compare.mpr light⟩

/-- A sift down makes a heap: it has fuel for the way to the end of the array (R181). -/
theorem siftDown_heap {fuel : Nat} {h : List Tree} {i : Nat} (sinking : Sinking (weightAt h) i)
    (enough : h.length ≤ i + fuel) : Heap (weightAt (siftDown fuel h i)) := by
  induction fuel generalizing h i with
  | zero =>
    obtain ⟨-, parent, least⟩ := chosenChild_spec h i
    have beyond : weightAt h (chosenChild h i) = ⊤ := weightAt_of_le (by omega)
    exact sinking.heap least (beyond ▸ le_top)
  | succ fuel ih =>
    obtain ⟨pos, parent, least⟩ := chosenChild_spec h i
    have compare : lighter h (chosenChild h i) i = true ↔ weightAt h (chosenChild h i) < weightAt h i :=
      lighter_iff (by omega)
    rw [siftDown]
    split
    · rename_i light
      obtain ⟨inside, inside'⟩ := lighter_inside light
      have sunk := sinking.swap pos parent least (compare.mp light)
      rw [← weightAt_swap inside inside'] at sunk
      exact ih sunk (by rw [swap_length]; omega)
    · rename_i stays
      exact sinking.heap least (not_lt.mp (mt compare.mpr stays))

/-! ## The operations -/

theorem weightAt_append {h h' : List Tree} {i : Nat} (hi : i < h.length) : weightAt (h ++ h') i = weightAt h i := by
  rw [weightAt, weightAt, List.getElem?_append_left hi]

/-- An insert keeps the heap's order (R193 (5)). -/
theorem heapInsert_ordered {h : List Tree} (ordered : HeapOrdered h) (t : Tree) : HeapOrdered (heapInsert h t) := by
  rw [heapOrdered_iff] at ordered ⊢
  have length : (h ++ [t]).length = h.length + 1 := by simp
  have rising : Rising (weightAt (h ++ [t])) h.length := by
    constructor
    · intro i pos notLast
      rcases Nat.lt_or_gt_of_ne notLast with inside | beyond
      · rw [weightAt_append inside, weightAt_append (by omega)]
        exact ordered i pos
      · rw [weightAt_of_le (i := i) (by omega)]
        exact le_top
    · intro pos i _ child
      rw [weightAt_of_le (i := i) (by omega)]
      exact le_top
  exact siftUp_heap rising le_rfl (by omega)

/-- An insert adds its element (R181). -/
theorem heapInsert_perm (h : List Tree) (t : Tree) : (heapInsert h t).Perm (t :: h) :=
  (siftUp_perm _ _ _).trans (List.perm_append_singleton t h)

/-- A removal from a queue of one takes it; from a longer one it takes the root, whose place the last element takes
and sinks (R181). -/
theorem heapRemoveTop_cases {h : List Tree} (nonempty : h ≠ []) :
    (∃ top, h = [top] ∧ heapRemoveTop h = .ok (top, [])) ∨
    ∃ top last init, h = top :: (init ++ [last]) ∧
      heapRemoveTop h = .ok (top, siftDown (init.length + 1) (last :: init) 0) := by
  obtain ⟨top, rest, rfl⟩ := List.exists_cons_of_ne_nil nonempty
  rcases List.eq_nil_or_concat' rest with rfl | ⟨init, last, rfl⟩
  · exact .inl ⟨top, rfl, rfl⟩
  · exact .inr ⟨top, last, init, rfl, by simp [heapRemoveTop]⟩

/-- A removal from a queue that is not empty succeeds (R181). -/
theorem heapRemoveTop_of_ne_nil {h : List Tree} (nonempty : h ≠ []) :
    ∃ top rest, heapRemoveTop h = .ok (top, rest) := by
  rcases heapRemoveTop_cases nonempty with ⟨top, -, gives⟩ | ⟨top, _, _, -, gives⟩
  · exact ⟨top, _, gives⟩
  · exact ⟨top, _, gives⟩

/-- Only the empty queue has no element to remove (R181). -/
theorem heapRemoveTop_error_iff (h : List Tree) : heapRemoveTop h = .error .queueUnderflow ↔ h = [] := by
  refine ⟨fun fails => ?_, by rintro rfl; rfl⟩
  by_contra nonempty
  obtain ⟨top, rest, gives⟩ := heapRemoveTop_of_ne_nil nonempty
  rw [gives] at fails
  cases fails

/-- What a removal that succeeds has taken and left (R181). -/
theorem heapRemoveTop_ok {h rest : List Tree} {top : Tree} (removed : heapRemoveTop h = .ok (top, rest)) :
    (h = [top] ∧ rest = []) ∨
    ∃ last init, h = top :: (init ++ [last]) ∧ rest = siftDown (init.length + 1) (last :: init) 0 := by
  have nonempty : h ≠ [] := by
    rintro rfl
    cases removed
  rcases heapRemoveTop_cases nonempty with ⟨_, rfl, gives⟩ | ⟨_, last, init, rfl, gives⟩
  · obtain ⟨rfl, rfl⟩ := Prod.mk.inj (Except.ok.inj (gives.symm.trans removed))
    exact .inl ⟨rfl, rfl⟩
  · obtain ⟨rfl, rfl⟩ := Prod.mk.inj (Except.ok.inj (gives.symm.trans removed))
    exact .inr ⟨last, init, rfl, rfl⟩

/-- The heap without its root: the last element at the root's place is to sink. -/
theorem sinking_of_heap {top last : Tree} {init : List Tree} (heap : Heap (weightAt (top :: (init ++ [last])))) :
    Sinking (weightAt (last :: init)) 0 where
  others i pos notChild := by
    have same (k : Nat) (low : 0 < k) (high : k < (last :: init).length) :
        weightAt (last :: init) k = weightAt (top :: (init ++ [last])) k := by
      obtain ⟨k, rfl⟩ := Nat.exists_eq_succ_of_ne_zero low.ne'
      exact (weightAt_append (Nat.lt_of_succ_lt_succ high)).symm
    rcases Nat.lt_or_ge i (last :: init).length with inside | beyond
    · rw [same i pos inside, same _ (Nat.pos_of_ne_zero notChild) (by omega)]
      exact heap i pos
    · rw [weightAt_of_le beyond]
      exact le_top
  around pos := absurd pos (Nat.lt_irrefl 0)

theorem heapOrdered_nil : HeapOrdered [] := fun _ _ _ _ hx => by simp at hx

/-- A removal keeps the heap's order (R193 (5)). -/
theorem heapRemoveTop_ordered {h rest : List Tree} {top : Tree} (ordered : HeapOrdered h)
    (removed : heapRemoveTop h = .ok (top, rest)) : HeapOrdered rest := by
  rcases heapRemoveTop_ok removed with ⟨-, rfl⟩ | ⟨last, init, rfl, rfl⟩
  · exact heapOrdered_nil
  · rw [heapOrdered_iff] at ordered ⊢
    exact siftDown_heap (sinking_of_heap ordered) (by simp)

/-- A removal takes the root, and keeps the other elements (R181). -/
theorem heapRemoveTop_perm {h rest : List Tree} {top : Tree} (removed : heapRemoveTop h = .ok (top, rest)) :
    h[0]? = some top ∧ h.Perm (top :: rest) := by
  rcases heapRemoveTop_ok removed with ⟨rfl, rfl⟩ | ⟨last, init, rfl, rfl⟩
  · exact ⟨rfl, .rfl⟩
  · exact ⟨rfl, .cons top ((List.perm_append_singleton last init).trans (siftDown_perm _ _ _).symm)⟩

/-- A removal gives a lightest element (R181). -/
theorem heapRemoveTop_least {h rest : List Tree} {top : Tree} (ordered : HeapOrdered h)
    (removed : heapRemoveTop h = .ok (top, rest)) : ∀ t ∈ rest, top.weight ≤ t.weight := by
  intro t ht
  obtain ⟨root, perm⟩ := heapRemoveTop_perm removed
  obtain ⟨i, hi⟩ := List.mem_iff_getElem?.mp (perm.mem_iff.mpr (List.mem_cons_of_mem top ht))
  have le := ((heapOrdered_iff h).mp ordered).root_le i
  rw [weightAt_of_some root, weightAt_of_some hi] at le
  exact_mod_cast le

/-- Settles O54: a sift mends the one place where the order may fail, and only exchanges elements. -/
theorem heapOperationsKeepOrder : Obligations.HeapOperationsKeepOrder := by
  unfold Obligations.HeapOperationsKeepOrder
  exact ⟨fun h t ordered => ⟨heapInsert_ordered ordered t, heapInsert_perm h t⟩,
    fun h top rest ordered removed => ⟨heapRemoveTop_ordered ordered removed, (heapRemoveTop_perm removed).2,
      heapRemoveTop_least ordered removed⟩, heapRemoveTop_error_iff⟩

end Sys2Proof.Proofs
end

section
/-! The family of the host reference procedure (spec/45_host_reference.md), seventh part: the tree builder under the
reference choices (R183, R185). -/

namespace Sys2Proof.Proofs

open Sys2Proof.Machine Sys2Proof.Laws Sys2Proof.Reference

/-! ## The queue -/

/-- Inserts one after another keep the heap's order, and add their elements (R181, R185). -/
theorem foldl_heapInsert {h : List Tree} (ordered : HeapOrdered h) (q : List Tree) :
    HeapOrdered (q.foldl heapInsert h) ∧ (q.foldl heapInsert h).Perm (q ++ h) := by
  induction q generalizing h with
  | nil => exact ⟨ordered, .rfl⟩
  | cons t q ih =>
    obtain ⟨ordered', perm⟩ := ih (heapInsert_ordered ordered t)
    exact ⟨ordered', perm.trans (((heapInsert_perm h t).append_left q).trans List.perm_middle)⟩

/-! ## The merging loop -/

/-- What the builder may give does not depend on the order of its trees (R185). -/
theorem builds_of_perm {q q' : List Tree} {t : Tree} (h : Builds q t) (perm : q'.Perm q) : Builds q' t := by
  cases h with
  | done => exact List.perm_singleton.mp perm ▸ .done t
  | mergeLeft _ rest t1 t2 _ hq h1 h2 hr => exact .mergeLeft _ rest t1 t2 t (perm.trans hq) h1 h2 hr
  | mergeRight _ rest t1 t2 _ hq h1 h2 hr => exact .mergeRight _ rest t1 t2 t (perm.trans hq) h1 h2 hr

/-- The loop on a heap ends with one of the trees that the builder may give (R183, R185). -/
theorem buildLoop_builds {fuel : Nat} {q : List Tree} (ordered : HeapOrdered q) (nonempty : q ≠ [])
    (enough : q.length ≤ fuel) : ∃ t, buildLoop fuel q = .ok t ∧ Builds q t := by
  induction fuel generalizing q with
  | zero => exact absurd (List.eq_nil_of_length_eq_zero (Nat.le_zero.mp enough)) nonempty
  | succ fuel ih =>
    obtain ⟨t1, q1, first⟩ := heapRemoveTop_of_ne_nil nonempty
    obtain ⟨-, perm1⟩ := heapRemoveTop_perm first
    cases hq1 : q1 with
    | nil =>
      subst hq1
      refine ⟨t1, by simp only [buildLoop, first], ?_⟩
      exact builds_of_perm (.done t1) perm1
    | cons t ts =>
      have ordered1 := heapRemoveTop_ordered ordered first
      obtain ⟨t2, q2, second⟩ := heapRemoveTop_of_ne_nil (h := q1) (by simp [hq1])
      obtain ⟨-, perm2⟩ := heapRemoveTop_perm second
      have ordered2 := heapInsert_ordered (heapRemoveTop_ordered ordered1 second) (merge t1 t2)
      have perm := heapInsert_perm q2 (merge t1 t2)
      have shorter : (heapInsert q2 (merge t1 t2)).length + 1 = q.length := by
        rw [perm.length_eq, perm1.length_eq, List.length_cons, List.length_cons, perm2.length_eq, List.length_cons]
      have nonempty2 : heapInsert q2 (merge t1 t2) ≠ [] := List.ne_nil_of_mem (perm.mem_iff.mpr List.mem_cons_self)
      obtain ⟨r, loop, built⟩ := ih ordered2 nonempty2 (by omega)
      refine ⟨r, ?_, .mergeLeft q q2 t1 t2 r (perm1.trans (perm2.cons t1)) ?_ (heapRemoveTop_least ordered1 second)
        (builds_of_perm built perm.symm)⟩
      · rw [hq1] at second first
        simp only [buildLoop, first, second, loop]
      · exact heapRemoveTop_least ordered first t2 (perm2.mem_iff.mpr (List.mem_cons_self ..))

/-! ## The builder -/

theorem buildTree_of_leaves {f : Freq} (h : leaves f ≠ []) :
    buildTree f = buildLoop (leaves f).length ((leaves f).foldl heapInsert []) := by
  rw [buildTree]
  split
  · rename_i empty
    exact absurd empty h
  · rfl

theorem buildTree_of_no_leaves {f : Freq} (h : leaves f = []) : buildTree f = .error .emptyInput := by
  rw [buildTree, h]

theorem leaves_ne_nil_of_pos {f : Freq} (h : ∃ k : Sym, 0 < f[k.toNat]'k.isLt) : leaves f ≠ [] := by
  obtain ⟨k, pos⟩ := h
  rw [leaves_eq, ne_eq, List.map_eq_nil_iff]
  exact List.ne_nil_of_mem ((mem_usedSyms f k).mpr pos)

theorem leaves_of_zero : leaves (Vector.replicate 128 0) = [] := by
  rw [leaves_eq, List.map_eq_nil_iff, List.eq_nil_iff_forall_not_mem]
  intro k hk
  simpa using (mem_usedSyms _ k).mp hk

/-- Settles O55: the queue is a heap, so each round merges two lightest trees. -/
theorem referenceBuilderIsOneOutcome : Obligations.ReferenceBuilderIsOneOutcome := by
  unfold Obligations.ReferenceBuilderIsOneOutcome
  constructor
  · intro f used
    have nonempty := leaves_ne_nil_of_pos used
    obtain ⟨ordered, perm⟩ := foldl_heapInsert heapOrdered_nil (leaves f)
    rw [List.append_nil] at perm
    have nonempty' : (leaves f).foldl heapInsert [] ≠ [] := by
      intro empty
      rw [empty] at perm
      exact nonempty perm.nil_eq.symm
    obtain ⟨t, loop, built⟩ := buildLoop_builds ordered nonempty' perm.length_eq.le
    exact ⟨t, (buildTree_of_leaves nonempty).trans loop, builds_of_perm built perm.symm⟩
  · intro width
    have counted : frequencies width [] = .ok (Vector.replicate 128 0) := rfl
    simp only [symbolTable, counted, buildTree_of_no_leaves leaves_of_zero]

end Sys2Proof.Proofs
end

section
/-! The family of the exceptions (spec/60_exceptions.md): the errors a start command raises in its own step (R205). -/

namespace Sys2Proof.Proofs

open Sys2Proof.Machine Sys2Proof.Laws

/-- A table check that raises an error is a failed one: a passed check leaves ERR clear (R116). -/
theorem tblCheck_of_err {s : State} (idle : s.eng.job = .idle) (raised : (tblCheck s).err = true) :
    ∃ w, tblCheck s = startFailed .check .injectivity w s := by
  refine (tblCheck_cases idle).resolve_right fun passed => ?_
  rw [passed] at raised
  exact Bool.false_ne_true raised

/-- An ENC_START that raises an error is a failed one: a started job leaves ERR clear (R130). -/
theorem encStart_of_err {s : State} (idle : s.eng.job = .idle) (raised : (encStart s).err = true) :
    ∃ w, encStart s = startFailed .encode .emptyInput w s := by
  refine (encStart_cases idle).resolve_right fun started => ?_
  rw [started] at raised
  exact Bool.false_ne_true raised

/-- A DEC_START that raises an error is a failed one: a started job leaves ERR clear in either mode (R150). -/
theorem decStart_of_err {s : State} (idle : s.eng.job = .idle) (raised : (decStart s).err = true) :
    ∃ w, decStart s = startFailed .decode .injectivity w s := by
  refine (decStart_cases idle).resolve_right fun ⟨_, started⟩ => ?_
  obtain ⟨d, k, -, begun⟩ := decBegin_eq s
  rw [started, begun] at raised
  exact Bool.false_ne_true raised

/-- A failed start shows its error and its job, and neither starts a job, counts nor touches the ports (R98, R205). -/
theorem startFailed_frame (k : JobKind) (c : ErrCode) (w : Word) {s : State} (idle : s.eng.job = .idle) :
    let t := startFailed k c w s
    t.errCode = c ∧ t.eng = s.eng ∧ t.busy = false ∧ t.jobKind = k ∧
      t.inCount = 0 ∧ t.outCount = 0 ∧ t.skipCount = 0 ∧ t.inSlot = s.inSlot ∧ t.outSlot = s.outSlot :=
  ⟨rfl, rfl, (busy_eq_false_iff _).mpr idle, rfl, rfl, rfl, rfl, rfl, rfl⟩

/-- Settles O42: a start command that raised an error failed, and begin_job left the counters 0. -/
theorem startTimeErrorsStartNoJob : Obligations.StartTimeErrorsStartNoJob := by
  unfold Obligations.StartTimeErrorsStartNoJob
  rintro s t i (rfl | rfl | rfl) idle run raised
  case inl =>
    rw [exec, execEncStart, whenIdle_of_idle _ idle, Host.Outcome.next.injEq] at run
    subst run
    obtain ⟨w, failed⟩ := encStart_of_err idle raised
    rw [failed]
    exact startFailed_frame .encode .emptyInput w idle
  case inr.inl =>
    rw [exec, execDecStart, whenIdle_of_idle _ idle, Host.Outcome.next.injEq] at run
    subst run
    obtain ⟨w, failed⟩ := decStart_of_err idle raised
    rw [failed]
    exact startFailed_frame .decode .injectivity w idle
  case inr.inr =>
    rw [exec, execTblCheck, whenIdle_of_idle _ idle, Host.Outcome.next.injEq] at run
    subst run
    obtain ⟨w, failed⟩ := tblCheck_of_err idle raised
    rw [failed]
    exact startFailed_frame .check .injectivity w idle

end Sys2Proof.Proofs
end

section
/-! The family of reset and hazards (spec/70_reset_and_hazards.md): the steps before the first reset (R232), what a
running job waits for, and why a fair run ends it (R239, R241). An engine step uses up some of the job's work, and no
other step adds to it. So the engine of a job that never ended would at last do nothing, and from then on the slots would
change in its favour alone: a host that does its duty would leave it nothing to wait for, and a fair engine would work
again. -/

namespace Sys2Proof.Proofs

open Sys2Proof.Machine Sys2Proof.Laws

/-! ## Before the first reset -/

/-- Before the first reset a step whose next move is not Reset is refused (R232, log 3). -/
theorem step_of_unseen {s : State} (unseen : s.resetSeen = false) (noReset : ∀ ts, s.host.turns ≠ .reset :: ts) :
    step s = .refused .beforeFirstReset := by
  rw [step, if_neg (by simp [unseen]), powerUpStep]
  split
  · rename_i ts next
    exact absurd next (noReset ts)
  · rfl

/-- Settles O12: any other move is refused, and Reset is taken whether or not one was seen before. -/
theorem beforeFirstResetOnlyResetIsTaken : Obligations.BeforeFirstResetOnlyResetIsTaken := by
  unfold Obligations.BeforeFirstResetOnlyResetIsTaken
  exact fun s unseen => ⟨step_of_unseen unseen, fun ts next => ⟨_, step_reset next, rfl⟩⟩

/-! ## What a running job waits for -/

/-- With OUT.slot empty, and a byte offered if input remains, an engine step of the running job is enabled (R103). -/
theorem exists_enabled {s : State} (inv : s.Inv) (busy : s.eng.job ≠ .idle) (empty : s.outSlot = none)
    (offered : 0 < s.eng.remaining.toNat → s.inSlot ≠ none) : ∃ e, engineGuard e s = true := by
  have input : s.eng.remaining = 0 ∨ 0 < s.eng.remaining.toNat ∧ ∃ b, s.inSlot = some b := by
    rcases Nat.eq_zero_or_pos s.eng.remaining.toNat with zero | left
    · exact .inl (BitVec.eq_of_toNat_eq zero)
    · exact .inr ⟨left, Option.ne_none_iff_exists'.mp (offered left)⟩
  cases job : s.eng.job with
  | idle => exact absurd job busy
  | enc =>
    cases opened : s.eng.encActive with
    | true =>
      obtain ⟨-, -, within⟩ := inv.encActiveRow opened
      rcases Nat.lt_or_eq_of_le within with more | last
      · exact ⟨_, (encEmitChar_guard_iff s).mpr ⟨job, opened, more, empty⟩⟩
      · exact ⟨_, (encEmitDelim_guard_iff s).mpr ⟨job, opened, last, empty⟩⟩
    | false =>
      rcases input with none | ⟨left, byte⟩
      · exact ⟨_, (encFinish_guard_iff s).mpr ⟨job, opened, none, empty⟩⟩
      · exact ⟨_, (encConsume_guard_iff s).mpr ⟨job, opened, left, byte⟩⟩
  | dec =>
    rcases input with none | ⟨left, byte⟩
    · cases opened : s.eng.decIntok with
      | true => exact ⟨_, (decFlush_guard_iff s).mpr ⟨job, none, opened, empty⟩⟩
      | false => exact ⟨_, (decFinish_guard_iff s).mpr ⟨job, none, opened, empty⟩⟩
    · exact ⟨_, (decConsume_guard_iff s).mpr ⟨job, left, byte, empty⟩⟩

/-- A running job with no engine step enabled waits for input, or for OUT.slot to be taken (R239). -/
theorem waits_of_disabled {s : State} (inv : s.Inv) (busy : s.eng.job ≠ .idle)
    (disabled : ∀ e, engineGuard e s = false) :
    (0 < s.eng.remaining.toNat ∧ s.inSlot = none) ∨ s.outSlot ≠ none := by
  by_contra nothing
  rw [not_or, not_and, not_not] at nothing
  obtain ⟨e, guard⟩ := exists_enabled inv busy nothing.2 nothing.1
  exact absurd guard (by simp [disabled e])

/-! ## The work left to the engine -/

/-- A bound on the engine steps that leave the job running: each byte of input makes at most one step that consumes it and
128 that emit its token, or one that consumes it and one that ends its token. -/
def jobWork (s : State) : Nat :=
  129 * s.eng.remaining.toNat + (pending s).length + s.eng.decIntok.toNat

/-- A token has at most 128 bytes: a code string and the space (R8, R75). -/
theorem encToken_length_le (lut : Lut) (b : Byte) : (encToken lut b).length ≤ 128 := by
  have := (lutAt lut (b.setWidth 7)).len.isLt
  simp only [encToken, List.length_append, chars_length, List.length_singleton]
  omega

/-- One byte less of input is 129 less of work. -/
theorem work_of_oneLess {r : Word} (left : 0 < r.toNat) : 129 * (r - 1).toNat + 129 = 129 * r.toNat := by
  have : (r - 1).toNat + 1 = r.toNat := by bv_omega
  omega

/-- A byte emitted is one byte less pending. -/
theorem jobWork_of_emitted {s t : State} {c : Byte} (remaining : t.eng.remaining = s.eng.remaining)
    (token : t.eng.decIntok = s.eng.decIntok) (out : t.outSlot = some c)
    (moved : pending s = t.outSlot.toList ++ pending t) : jobWork t < jobWork s := by
  simp only [jobWork, remaining, token, moved, out, Option.toList_some, List.length_append, List.length_singleton]
  omega

/-- An engine step ends the job or uses up some of its work (R132 to R136, R155 to R159). -/
theorem engineRun_works {e : EngineStep} {s : State} (guard : engineGuard e s = true) :
    (engineRun e s).eng.job = .idle ∨ jobWork (engineRun e s) < jobWork s := by
  cases e with
  | encConsume =>
    obtain ⟨-, closed, left, -⟩ := (encConsume_guard_iff s).mp guard
    obtain ⟨b, -, ⟨c, failed⟩ | ⟨-, opened⟩⟩ := encConsume_cases guard
    · exact .inl (by rw [failed]; rfl)
    · right
      have after : jobWork (encOpened b s) =
          129 * (s.eng.remaining - 1).toNat + (encToken s.lut b).length + s.eng.decIntok.toNat := by
        rw [jobWork, pending_encOpened]
        rfl
      have := work_of_oneLess left
      have := encToken_length_le s.lut b
      rw [opened, after, jobWork]
      omega
  | encEmitChar => exact .inr (jobWork_of_emitted rfl rfl rfl (pending_encEmitChar guard))
  | encEmitDelim => exact .inr (jobWork_of_emitted rfl rfl rfl (pending_encEmitDelim guard))
  | encFinish => exact .inl rfl
  | decConsume =>
    right
    obtain ⟨-, left, -⟩ := (decConsume_guard_iff s).mp guard
    obtain ⟨b, o, n, -, next⟩ := decConsume_eq guard
    obtain ⟨i, d, l, a, token⟩ := decAfterByte_eq b s.eng
    have after : jobWork (engineRun .decConsume s) =
        129 * (s.eng.remaining - 1).toNat + (pending s).length + i.toNat := by
      rw [next, token]
      rfl
    have := work_of_oneLess left
    have := i.toNat_le
    rw [after, jobWork]
    omega
  | decFlush =>
    right
    obtain ⟨-, -, opened, -⟩ := (decFlush_guard_iff s).mp guard
    obtain ⟨o, n, ended⟩ := endToken_eq s
    have after : jobWork (engineRun .decFlush s) = 129 * s.eng.remaining.toNat + (pending s).length := by
      rw [engineRun, decFlush, ended]
      rfl
    rw [after, jobWork, opened]
    exact Nat.lt_succ_self _
  | decFinish => exact .inl rfl

/-! ## Steps that are not the engine's -/

/-- From `s` to `t` the engine did nothing, and the ports changed in its favour alone: a byte offered still waits, and an
empty OUT.slot is still empty (R94, R95). -/
structure Awaits (s t : State) : Prop where
  eng : t.eng = s.eng
  lut : t.lut = s.lut
  offered : s.inSlot ≠ none → t.inSlot ≠ none
  empty : s.outSlot = none → t.outSlot = none

theorem awaits_of_same {s t : State} (eng : t.eng = s.eng) (lut : t.lut = s.lut) (inSlot : t.inSlot = s.inSlot)
    (outSlot : t.outSlot = s.outSlot) : Awaits s t :=
  ⟨eng, lut, fun offered => inSlot ▸ offered, fun empty => outSlot ▸ empty⟩

theorem Awaits.trans {s t u : State} (h : Awaits s t) (h' : Awaits t u) : Awaits s u :=
  ⟨h'.eng.trans h.eng, h'.lut.trans h.lut, h'.offered ∘ h.offered, h'.empty ∘ h.empty⟩

/-- Neither E nor the ports hold the moves still to come. -/
theorem Awaits.of_setTurns {s t : State} {ts : List Turn} (h : Awaits (s.setTurns ts) t) : Awaits s t :=
  ⟨h.eng, h.lut, h.offered, h.empty⟩

theorem Awaits.jobWork_eq {s t : State} (h : Awaits s t) : jobWork t = jobWork s := by
  simp only [jobWork, pending, State.encEntry, State.entry, h.eng, h.lut]

/-- A command while a job runs ends the job, or leaves it and the ports alone (R93, R96, R97). -/
theorem exec_awaits {i : Instr} {s t : State} (h : exec i s = .next t) (busy : s.eng.job ≠ .idle) :
    t.eng.job = .idle ∨ Awaits s t := by
  by_cases nop : i = .nop
  · subst nop
    obtain rfl : s = t := Host.Outcome.next.inj h
    exact .inr (awaits_of_same rfl rfl rfl rfl)
  · by_cases abort : i = .abort
    · subst abort
      obtain rfl := Host.Outcome.next.inj ((exec_abort_of_busy busy).symm.trans h)
      exact .inl rfl
    · obtain rfl := Host.Outcome.next.inj ((exec_of_busy busy nop abort).symm.trans h)
      exact .inr (awaits_of_same rfl rfl rfl rfl)

/-- A step taken while a job runs ends the job, uses up some of its work, or leaves the engine where it was. -/
theorem works_or_awaits_of_step {s t : State} (h : step s = .next t) (busy : s.eng.job ≠ .idle) :
    (t.eng.job = .idle ∨ jobWork t < jobWork s) ∨ Awaits s t := by
  refine step_induction h (fun t => (t.eng.job = .idle ∨ jobWork t < jobWork s) ∨ Awaits s t)
    ?reset ?engine ?wait ?read ?write ?reject ?command ?offer ?take
  case reset => exact fun _ _ => .inl (.inl rfl)
  case engine =>
    intro ts e takes
    have guard : engineGuard e (s.setTurns ts) = true := by rw [engineGuard_setTurns, takes.1]
    exact .inl (engineRun_works guard)
  case wait => exact fun _ => .inr (awaits_of_same rfl rfl rfl rfl)
  case read => exact fun _ _ => .inr (awaits_of_same rfl rfl rfl rfl)
  case write =>
    intro ts off w _ _
    rcases writeReg_cases (regOfOffset off) w (s.setTurns ts) with
      ⟨-, wrote⟩ | ⟨c, n, l, c0, c1, c2, c3, wrote⟩ <;> rw [wrote]
    · rw [writeStatus_eq]
      exact .inr (awaits_of_same rfl rfl rfl rfl)
    · exact .inr (awaits_of_same rfl rfl rfl rfl)
  case reject => exact fun _ _ _ => .inr (awaits_of_same rfl rfl rfl rfl)
  case command =>
    intro ts i u _ run
    have busy : (s.setTurns ts).eng.job ≠ .idle := busy
    exact (exec_awaits run busy).imp .inl Awaits.of_setTurns
  case offer => exact fun _ _ _ => .inr ⟨rfl, rfl, fun _ => Option.some_ne_none _, id⟩
  case take =>
    intro ts
    rcases hostTake_cases (s.setTurns ts) with ⟨b, -, took⟩ | ⟨-, took⟩ <;> rw [took]
    · exact .inr ⟨rfl, rfl, id, fun _ => rfl⟩
    · exact .inr (awaits_of_same rfl rfl rfl rfl)

/-! ## Runs without end -/

/-- Every state of a run from a state of a run keeps the invariants (R47). -/
theorem inv_of_follows {σ : Nat → State} (run : Run σ) (start : (σ 0).Inv) (n : Nat) : (σ n).Inv := by
  induction n with
  | zero => exact start
  | succ n ih =>
    obtain ⟨ts, next⟩ := run n
    exact stepKeepsInvariants _ _ ((inv_setTurns (σ n) ts).mpr ih) next

section
variable {σ : Nat → State} (busy : ∀ n, (σ n).eng.job ≠ .idle)
include busy

/-- A step of a run whose job never ends uses up work, or leaves the engine where it was. -/
theorem works_or_awaits_next (run : Run σ) (n : Nat) :
    jobWork (σ (n + 1)) < jobWork (σ n) ∨ Awaits (σ n) (σ (n + 1)) := by
  obtain ⟨ts, next⟩ := run n
  rcases works_or_awaits_of_step next (busy n) with (idle | less) | awaits
  · exact absurd idle (busy (n + 1))
  · exact .inl less
  · exact .inr awaits.of_setTurns

/-- From some state on the engine of a job that never ends does nothing: the work left cannot fall for ever. -/
theorem eventually_awaits (run : Run σ) : ∃ N, ∀ n m, N ≤ n → n ≤ m → Awaits (σ n) (σ m) := by
  have falls : Antitone fun n => jobWork (σ n) := antitone_nat_of_succ_le fun n =>
    (works_or_awaits_next busy run n).elim Nat.le_of_lt fun awaits => awaits.jobWork_eq.le
  obtain ⟨N, least⟩ : ∃ N, ∀ n, jobWork (σ N) ≤ jobWork (σ n) := 
    ⟨_, fun n => Function.argmin_le (f := fun n => jobWork (σ n)) n⟩
  refine ⟨N, fun n m late later => ?_⟩
  induction m, later using Nat.le_induction with
  | base => exact awaits_of_same rfl rfl rfl rfl
  | succ m later ih =>
    have kept : ¬jobWork (σ (m + 1)) < jobWork (σ m) :=
      Nat.not_lt.mpr ((falls (late.trans later)).trans (least (m + 1)))
    exact ih.trans ((works_or_awaits_next busy run m).resolve_left kept)

/-- A fair host takes the byte in OUT.slot of a job that never ends (R239). -/
theorem eventually_empty (host : FairHost σ) (n : Nat) : ∃ m, n ≤ m ∧ (σ m).outSlot = none := by
  by_cases empty : (σ n).outSlot = none
  · exact ⟨n, le_rfl, empty⟩
  · obtain ⟨m, later, taken | idle⟩ := host.takes n ((busy_eq_true_iff _).mpr (busy n)) empty
    · exact ⟨m, later, taken⟩
    · exact absurd ((busy_eq_false_iff _).mp idle) (busy m)

/-- A fair host offers a byte to a job that never ends, if input remains (R239). -/
theorem eventually_offered (host : FairHost σ) (n : Nat) :
    ∃ m, n ≤ m ∧ (0 < (σ m).eng.remaining.toNat → (σ m).inSlot ≠ none) := by
  by_cases waits : 0 < (σ n).eng.remaining.toNat ∧ (σ n).inSlot = none
  · obtain ⟨m, later, offered | idle⟩ := host.offers n ((busy_eq_true_iff _).mpr (busy n)) waits.2 waits.1
    · exact ⟨m, later, fun _ => offered⟩
    · exact absurd ((busy_eq_false_iff _).mp idle) (busy m)
  · exact ⟨n, le_rfl, not_and.mp waits⟩

end

/-- In a fair run the job ends: else the engine at last does nothing, the host leaves it a step it could take, and the
engine, being fair, takes it (R239, R241). -/
theorem idle_of_fair {σ : Nat → State} (start : (σ 0).Inv) (run : Run σ) (host : FairHost σ) (engine : FairEngine σ) :
    ∃ n, (σ n).eng.job = .idle := by
  by_contra forever
  have busy : ∀ n, (σ n).eng.job ≠ .idle := not_exists.mp forever
  obtain ⟨N, still⟩ := eventually_awaits busy run
  obtain ⟨k, afterN, empty⟩ := eventually_empty busy host N
  obtain ⟨l, afterK, offered⟩ := eventually_offered busy host k
  obtain ⟨m, afterL, served⟩ := engine l
  have sinceK := still k m afterN (afterK.trans afterL)
  have sinceL := still l m (afterN.trans afterK) afterL
  have next := still m (m + 1) (afterN.trans (afterK.trans afterL)) m.le_succ
  obtain ⟨e, guard⟩ := exists_enabled (inv_of_follows run start m) (busy m) (sinceK.empty empty) fun left =>
    sinceL.offered (offered (sinceL.eng ▸ left))
  rcases served with disabled | ⟨ts, turn⟩
  · exact absurd guard (by simp [disabled e])
  · have guard : engineGuard e ((σ m).setTurns ts) = true := by rw [engineGuard_setTurns, guard]
    rw [engineTurn_of_guard guard] at turn
    rcases engineRun_works guard with idle | less
    · exact busy (m + 1) (turn ▸ idle)
    · exact Nat.ne_of_lt (turn ▸ less) next.jobWork_eq

/-- Settles O59: with neither wait an engine step is enabled, and in a fair run the engine cannot stop short of the end. -/
theorem fairRunsEndTheJob : Obligations.FairRunsEndTheJob := by
  unfold Obligations.FairRunsEndTheJob
  refine ⟨fun s inv busy disabled => waits_of_disabled inv ((busy_eq_true_iff s).mp busy) disabled,
    fun σ start run host engine => ?_⟩
  obtain ⟨n, idle⟩ := idle_of_fair start run host engine
  exact ⟨n, (busy_eq_false_iff _).mpr idle⟩

end Sys2Proof.Proofs
end
